-- ==== Sys2Proof/Word.lean ====
section
/-! DEFINITION. The 16-bit word: an instruction, a memory cell, a register or an ALU result (00_scope.md R4, R6). -/

namespace Sys2Proof

/-- A 16-bit pattern, bit 15 the most significant (R5, R6). -/
abbrev Word := BitVec 16

/-- `signed(v)` of R6: v if v < 32768, else v - 65536. -/
abbrev Word.signed (v : Word) : Int := v.toInt

end Sys2Proof
end

