-- ==== Sys2Proof/Syntax.lean ====
section
/-! DEFINITION. The instructions of the hardware as data: one constructor of `Instr` per row of spec/opcode_table.json.
A compute word's dest and jump fields are operands of the row (30_encoding.md R62), so they are arguments of its constructor. -/

namespace Sys2Proof

/-- The mode bit of a compute instruction (bit 12, R54): where the second ALU operand comes from. -/
inductive Mode where
  | aMode   -- 0: the value of A
  | mMode   -- 1: the cell RAM[A]
  deriving DecidableEq, Repr

/-- The destination mask (bits 5..3, R55): three independent flags, 8 combinations, all valid. -/
structure Dest where
  toM : Bool   -- bit 3
  toD : Bool   -- bit 4
  toA : Bool   -- bit 5
  deriving DecidableEq, Repr

/-- The jump field (bits 2..0, R190): eight conditions on the ALU result. -/
inductive Jump where
  | never | jgt | jeq | jge | jlt | jne | jle | jmp
  deriving DecidableEq, Repr

/-- Every instruction word of the hardware. The names of the unsanctioned computations (R64) are u, the mode (A or M) and
the control pattern. -/
inductive Instr where
  /-- `@value` (R52, R90). The operand is the constructor's 16-bit argument (R57); well formed when its bit 15 is clear. -/
  | addressValue (value : Word)
  -- a = 0: the second operand y is A
  | dAndA (dest : Dest) (jump : Jump)   -- R120: 0000000, `D&A`
  | uA000001 (dest : Dest) (jump : Jump)   -- R121: 0000001, ~(D&A)
  | dPlusA (dest : Dest) (jump : Jump)   -- R122: 0000010, `D+A`
  | uA000011 (dest : Dest) (jump : Jump)   -- R123: 0000011, -(D+A)-1
  | uA000100 (dest : Dest) (jump : Jump)   -- R124: 0000100, D&~A
  | uA000101 (dest : Dest) (jump : Jump)   -- R125: 0000101, ~D|A
  | uA000110 (dest : Dest) (jump : Jump)   -- R126: 0000110, D-A-1
  | aMinusD (dest : Dest) (jump : Jump)   -- R127: 0000111, `A-D`
  | uA001000 (dest : Dest) (jump : Jump)   -- R128: 0001000, 0
  | uA001001 (dest : Dest) (jump : Jump)   -- R129: 0001001, -1
  | uA001010 (dest : Dest) (jump : Jump)   -- R130: 0001010, D
  | uA001011 (dest : Dest) (jump : Jump)   -- R131: 0001011, ~D
  | compD (dest : Dest) (jump : Jump)   -- R132: 0001100, `D`
  | notD (dest : Dest) (jump : Jump)   -- R133: 0001101, `!D`
  | dMinus1 (dest : Dest) (jump : Jump)   -- R134: 0001110, `D-1`
  | negD (dest : Dest) (jump : Jump)   -- R135: 0001111, `-D`
  | uA010000 (dest : Dest) (jump : Jump)   -- R136: 0010000, ~D&A
  | uA010001 (dest : Dest) (jump : Jump)   -- R137: 0010001, D|~A
  | uA010010 (dest : Dest) (jump : Jump)   -- R138: 0010010, A-D-1
  | dMinusA (dest : Dest) (jump : Jump)   -- R139: 0010011, `D-A`
  | uA010100 (dest : Dest) (jump : Jump)   -- R140: 0010100, ~(D|A)
  | dOrA (dest : Dest) (jump : Jump)   -- R141: 0010101, `D|A`
  | uA010110 (dest : Dest) (jump : Jump)   -- R142: 0010110, -(D+A)-2
  | uA010111 (dest : Dest) (jump : Jump)   -- R143: 0010111, D+A+1
  | uA011000 (dest : Dest) (jump : Jump)   -- R144: 0011000, 0
  | uA011001 (dest : Dest) (jump : Jump)   -- R145: 0011001, -1
  | uA011010 (dest : Dest) (jump : Jump)   -- R146: 0011010, ~D
  | uA011011 (dest : Dest) (jump : Jump)   -- R147: 0011011, D
  | uA011100 (dest : Dest) (jump : Jump)   -- R148: 0011100, ~D
  | uA011101 (dest : Dest) (jump : Jump)   -- R149: 0011101, D
  | uA011110 (dest : Dest) (jump : Jump)   -- R150: 0011110, -D-2
  | dPlus1 (dest : Dest) (jump : Jump)   -- R151: 0011111, `D+1`
  | uA100000 (dest : Dest) (jump : Jump)   -- R152: 0100000, 0
  | uA100001 (dest : Dest) (jump : Jump)   -- R153: 0100001, -1
  | uA100010 (dest : Dest) (jump : Jump)   -- R154: 0100010, A
  | uA100011 (dest : Dest) (jump : Jump)   -- R155: 0100011, ~A
  | uA100100 (dest : Dest) (jump : Jump)   -- R156: 0100100, 0
  | uA100101 (dest : Dest) (jump : Jump)   -- R157: 0100101, -1
  | uA100110 (dest : Dest) (jump : Jump)   -- R158: 0100110, ~A
  | uA100111 (dest : Dest) (jump : Jump)   -- R159: 0100111, A
  | uA101000 (dest : Dest) (jump : Jump)   -- R160: 0101000, 0
  | uA101001 (dest : Dest) (jump : Jump)   -- R161: 0101001, -1
  | zero (dest : Dest) (jump : Jump)   -- R162: 0101010, `0`
  | uA101011 (dest : Dest) (jump : Jump)   -- R163: 0101011, -1
  | uA101100 (dest : Dest) (jump : Jump)   -- R164: 0101100, 0
  | uA101101 (dest : Dest) (jump : Jump)   -- R165: 0101101, -1
  | uA101110 (dest : Dest) (jump : Jump)   -- R166: 0101110, -1
  | uA101111 (dest : Dest) (jump : Jump)   -- R167: 0101111, 0
  | compA (dest : Dest) (jump : Jump)   -- R168: 0110000, `A`
  | notA (dest : Dest) (jump : Jump)   -- R169: 0110001, `!A`
  | aMinus1 (dest : Dest) (jump : Jump)   -- R170: 0110010, `A-1`
  | negA (dest : Dest) (jump : Jump)   -- R171: 0110011, `-A`
  | uA110100 (dest : Dest) (jump : Jump)   -- R172: 0110100, ~A
  | uA110101 (dest : Dest) (jump : Jump)   -- R173: 0110101, A
  | uA110110 (dest : Dest) (jump : Jump)   -- R174: 0110110, -A-2
  | aPlus1 (dest : Dest) (jump : Jump)   -- R175: 0110111, `A+1`
  | uA111000 (dest : Dest) (jump : Jump)   -- R176: 0111000, 0
  | uA111001 (dest : Dest) (jump : Jump)   -- R177: 0111001, -1
  | minusOne (dest : Dest) (jump : Jump)   -- R178: 0111010, `-1`
  | uA111011 (dest : Dest) (jump : Jump)   -- R179: 0111011, 0
  | uA111100 (dest : Dest) (jump : Jump)   -- R180: 0111100, -1
  | uA111101 (dest : Dest) (jump : Jump)   -- R181: 0111101, 0
  | uA111110 (dest : Dest) (jump : Jump)   -- R182: 0111110, -2
  | one (dest : Dest) (jump : Jump)   -- R183: 0111111, `1`
  -- a = 1: the second operand y is RAM[A]
  | dAndM (dest : Dest) (jump : Jump)   -- R120: 1000000, `D&M`
  | uM000001 (dest : Dest) (jump : Jump)   -- R121: 1000001, ~(D&RAM[A])
  | dPlusM (dest : Dest) (jump : Jump)   -- R122: 1000010, `D+M`
  | uM000011 (dest : Dest) (jump : Jump)   -- R123: 1000011, -(D+RAM[A])-1
  | uM000100 (dest : Dest) (jump : Jump)   -- R124: 1000100, D&~RAM[A]
  | uM000101 (dest : Dest) (jump : Jump)   -- R125: 1000101, ~D|RAM[A]
  | uM000110 (dest : Dest) (jump : Jump)   -- R126: 1000110, D-RAM[A]-1
  | mMinusD (dest : Dest) (jump : Jump)   -- R127: 1000111, `M-D`
  | uM001000 (dest : Dest) (jump : Jump)   -- R128: 1001000, 0
  | uM001001 (dest : Dest) (jump : Jump)   -- R129: 1001001, -1
  | uM001010 (dest : Dest) (jump : Jump)   -- R130: 1001010, D
  | uM001011 (dest : Dest) (jump : Jump)   -- R131: 1001011, ~D
  | uM001100 (dest : Dest) (jump : Jump)   -- R132: 1001100, D
  | uM001101 (dest : Dest) (jump : Jump)   -- R133: 1001101, ~D
  | uM001110 (dest : Dest) (jump : Jump)   -- R134: 1001110, D-1
  | uM001111 (dest : Dest) (jump : Jump)   -- R135: 1001111, -D
  | uM010000 (dest : Dest) (jump : Jump)   -- R136: 1010000, ~D&RAM[A]
  | uM010001 (dest : Dest) (jump : Jump)   -- R137: 1010001, D|~RAM[A]
  | uM010010 (dest : Dest) (jump : Jump)   -- R138: 1010010, RAM[A]-D-1
  | dMinusM (dest : Dest) (jump : Jump)   -- R139: 1010011, `D-M`
  | uM010100 (dest : Dest) (jump : Jump)   -- R140: 1010100, ~(D|RAM[A])
  | dOrM (dest : Dest) (jump : Jump)   -- R141: 1010101, `D|M`
  | uM010110 (dest : Dest) (jump : Jump)   -- R142: 1010110, -(D+RAM[A])-2
  | uM010111 (dest : Dest) (jump : Jump)   -- R143: 1010111, D+RAM[A]+1
  | uM011000 (dest : Dest) (jump : Jump)   -- R144: 1011000, 0
  | uM011001 (dest : Dest) (jump : Jump)   -- R145: 1011001, -1
  | uM011010 (dest : Dest) (jump : Jump)   -- R146: 1011010, ~D
  | uM011011 (dest : Dest) (jump : Jump)   -- R147: 1011011, D
  | uM011100 (dest : Dest) (jump : Jump)   -- R148: 1011100, ~D
  | uM011101 (dest : Dest) (jump : Jump)   -- R149: 1011101, D
  | uM011110 (dest : Dest) (jump : Jump)   -- R150: 1011110, -D-2
  | uM011111 (dest : Dest) (jump : Jump)   -- R151: 1011111, D+1
  | uM100000 (dest : Dest) (jump : Jump)   -- R152: 1100000, 0
  | uM100001 (dest : Dest) (jump : Jump)   -- R153: 1100001, -1
  | uM100010 (dest : Dest) (jump : Jump)   -- R154: 1100010, RAM[A]
  | uM100011 (dest : Dest) (jump : Jump)   -- R155: 1100011, ~RAM[A]
  | uM100100 (dest : Dest) (jump : Jump)   -- R156: 1100100, 0
  | uM100101 (dest : Dest) (jump : Jump)   -- R157: 1100101, -1
  | uM100110 (dest : Dest) (jump : Jump)   -- R158: 1100110, ~RAM[A]
  | uM100111 (dest : Dest) (jump : Jump)   -- R159: 1100111, RAM[A]
  | uM101000 (dest : Dest) (jump : Jump)   -- R160: 1101000, 0
  | uM101001 (dest : Dest) (jump : Jump)   -- R161: 1101001, -1
  | uM101010 (dest : Dest) (jump : Jump)   -- R162: 1101010, 0
  | uM101011 (dest : Dest) (jump : Jump)   -- R163: 1101011, -1
  | uM101100 (dest : Dest) (jump : Jump)   -- R164: 1101100, 0
  | uM101101 (dest : Dest) (jump : Jump)   -- R165: 1101101, -1
  | uM101110 (dest : Dest) (jump : Jump)   -- R166: 1101110, -1
  | uM101111 (dest : Dest) (jump : Jump)   -- R167: 1101111, 0
  | compM (dest : Dest) (jump : Jump)   -- R168: 1110000, `M`
  | notM (dest : Dest) (jump : Jump)   -- R169: 1110001, `!M`
  | mMinus1 (dest : Dest) (jump : Jump)   -- R170: 1110010, `M-1`
  | negM (dest : Dest) (jump : Jump)   -- R171: 1110011, `-M`
  | uM110100 (dest : Dest) (jump : Jump)   -- R172: 1110100, ~RAM[A]
  | uM110101 (dest : Dest) (jump : Jump)   -- R173: 1110101, RAM[A]
  | uM110110 (dest : Dest) (jump : Jump)   -- R174: 1110110, -RAM[A]-2
  | mPlus1 (dest : Dest) (jump : Jump)   -- R175: 1110111, `M+1`
  | uM111000 (dest : Dest) (jump : Jump)   -- R176: 1111000, 0
  | uM111001 (dest : Dest) (jump : Jump)   -- R177: 1111001, -1
  | uM111010 (dest : Dest) (jump : Jump)   -- R178: 1111010, -1
  | uM111011 (dest : Dest) (jump : Jump)   -- R179: 1111011, 0
  | uM111100 (dest : Dest) (jump : Jump)   -- R180: 1111100, -1
  | uM111101 (dest : Dest) (jump : Jump)   -- R181: 1111101, 0
  | uM111110 (dest : Dest) (jump : Jump)   -- R182: 1111110, -2
  | uM111111 (dest : Dest) (jump : Jump)   -- R183: 1111111, 1
  /-- Invalid words, bits 15..13 = 100 (R65). -/
  | illegal100 (low : BitVec 13)
  /-- Invalid words, bits 15..13 = 101 (R65). -/
  | illegal101 (low : BitVec 13)
  /-- Invalid words, bits 15..13 = 110 (R65). -/
  | illegal110 (low : BitVec 13)
  deriving DecidableEq, Repr

end Sys2Proof
end

