-- ==== Sys2Proof/WellFormed.lean ====
section
/-! DEFINITION. Which terms of `Instr` are instructions. The field types (`Dest`, `Jump`, `BitVec 13`) already hold every
legal value and no other (R53: every combination of a, c, d and j is legal), so the one check is on the constant of `@value`. -/

namespace Sys2Proof

/-- The constant of an address instruction is 0..32767, bit 15 clear (R52, R57); every compute word is legal (R53, R66). -/
def Instr.wf : Instr → Bool
  | .addressValue value => !value.getLsbD 15
  | .dAndA _ _ => true
  | .uA000001 _ _ => true
  | .dPlusA _ _ => true
  | .uA000011 _ _ => true
  | .uA000100 _ _ => true
  | .uA000101 _ _ => true
  | .uA000110 _ _ => true
  | .aMinusD _ _ => true
  | .uA001000 _ _ => true
  | .uA001001 _ _ => true
  | .uA001010 _ _ => true
  | .uA001011 _ _ => true
  | .compD _ _ => true
  | .notD _ _ => true
  | .dMinus1 _ _ => true
  | .negD _ _ => true
  | .uA010000 _ _ => true
  | .uA010001 _ _ => true
  | .uA010010 _ _ => true
  | .dMinusA _ _ => true
  | .uA010100 _ _ => true
  | .dOrA _ _ => true
  | .uA010110 _ _ => true
  | .uA010111 _ _ => true
  | .uA011000 _ _ => true
  | .uA011001 _ _ => true
  | .uA011010 _ _ => true
  | .uA011011 _ _ => true
  | .uA011100 _ _ => true
  | .uA011101 _ _ => true
  | .uA011110 _ _ => true
  | .dPlus1 _ _ => true
  | .uA100000 _ _ => true
  | .uA100001 _ _ => true
  | .uA100010 _ _ => true
  | .uA100011 _ _ => true
  | .uA100100 _ _ => true
  | .uA100101 _ _ => true
  | .uA100110 _ _ => true
  | .uA100111 _ _ => true
  | .uA101000 _ _ => true
  | .uA101001 _ _ => true
  | .zero _ _ => true
  | .uA101011 _ _ => true
  | .uA101100 _ _ => true
  | .uA101101 _ _ => true
  | .uA101110 _ _ => true
  | .uA101111 _ _ => true
  | .compA _ _ => true
  | .notA _ _ => true
  | .aMinus1 _ _ => true
  | .negA _ _ => true
  | .uA110100 _ _ => true
  | .uA110101 _ _ => true
  | .uA110110 _ _ => true
  | .aPlus1 _ _ => true
  | .uA111000 _ _ => true
  | .uA111001 _ _ => true
  | .minusOne _ _ => true
  | .uA111011 _ _ => true
  | .uA111100 _ _ => true
  | .uA111101 _ _ => true
  | .uA111110 _ _ => true
  | .one _ _ => true
  | .dAndM _ _ => true
  | .uM000001 _ _ => true
  | .dPlusM _ _ => true
  | .uM000011 _ _ => true
  | .uM000100 _ _ => true
  | .uM000101 _ _ => true
  | .uM000110 _ _ => true
  | .mMinusD _ _ => true
  | .uM001000 _ _ => true
  | .uM001001 _ _ => true
  | .uM001010 _ _ => true
  | .uM001011 _ _ => true
  | .uM001100 _ _ => true
  | .uM001101 _ _ => true
  | .uM001110 _ _ => true
  | .uM001111 _ _ => true
  | .uM010000 _ _ => true
  | .uM010001 _ _ => true
  | .uM010010 _ _ => true
  | .dMinusM _ _ => true
  | .uM010100 _ _ => true
  | .dOrM _ _ => true
  | .uM010110 _ _ => true
  | .uM010111 _ _ => true
  | .uM011000 _ _ => true
  | .uM011001 _ _ => true
  | .uM011010 _ _ => true
  | .uM011011 _ _ => true
  | .uM011100 _ _ => true
  | .uM011101 _ _ => true
  | .uM011110 _ _ => true
  | .uM011111 _ _ => true
  | .uM100000 _ _ => true
  | .uM100001 _ _ => true
  | .uM100010 _ _ => true
  | .uM100011 _ _ => true
  | .uM100100 _ _ => true
  | .uM100101 _ _ => true
  | .uM100110 _ _ => true
  | .uM100111 _ _ => true
  | .uM101000 _ _ => true
  | .uM101001 _ _ => true
  | .uM101010 _ _ => true
  | .uM101011 _ _ => true
  | .uM101100 _ _ => true
  | .uM101101 _ _ => true
  | .uM101110 _ _ => true
  | .uM101111 _ _ => true
  | .compM _ _ => true
  | .notM _ _ => true
  | .mMinus1 _ _ => true
  | .negM _ _ => true
  | .uM110100 _ _ => true
  | .uM110101 _ _ => true
  | .uM110110 _ _ => true
  | .mPlus1 _ _ => true
  | .uM111000 _ _ => true
  | .uM111001 _ _ => true
  | .uM111010 _ _ => true
  | .uM111011 _ _ => true
  | .uM111100 _ _ => true
  | .uM111101 _ _ => true
  | .uM111110 _ _ => true
  | .uM111111 _ _ => true
  | .illegal100 _ => true
  | .illegal101 _ => true
  | .illegal110 _ => true

/-- A well-formed instruction. -/
abbrev WellFormed (i : Instr) : Prop := i.wf = true

end Sys2Proof
end

