-- ==== Sys2Proof/Decode.lean ====
section
/-! DEFINITION. From words to instructions and back (30_encoding.md): classification, field extraction, the decoder
(total: every 16-bit word is one instruction, the invalid ones under their own names), the constructors of R57 and R58, and
the encoder, written row by row from the spec's encodings. -/

namespace Sys2Proof

/-- The three results of R51. -/
inductive WordClass where
  | address | compute | invalid
  deriving DecidableEq, Repr

/-- Classification by the high bits (R51): bit 15 = 0 address; bits 15..13 = 111 compute; 100, 101, 110 invalid. -/
def classify (w : Word) : WordClass :=
  match w.getLsbD 15, w.getLsbD 14, w.getLsbD 13 with
  | false, _, _ => .address
  | true, true, true => .compute
  | true, false, false => .invalid
  | true, false, true => .invalid
  | true, true, false => .invalid

/-! ### Fields of a compute word (R53, R54, R55, R101) -/

/-- comp7 = w[12:6]: the mode bit and the control pattern (R54). -/
def comp7Of (w : Word) : BitVec 7 := w.extractLsb' 6 7

/-- The mode bit a = w[12] (R54). -/
def modeOf (w : Word) : Mode := if w.getLsbD 12 then .mMode else .aMode

/-- The control pattern c = w[11:6], zx nx zy ny f no (R54). -/
def controlOf (w : Word) : BitVec 6 := w.extractLsb' 6 6

/-- The dest field d = w[5:3] as three bits (R55). -/
def destBitsOf (w : Word) : BitVec 3 := w.extractLsb' 3 3

/-- The jump field j = w[2:0] as three bits (R55). -/
def jumpBitsOf (w : Word) : BitVec 3 := w.extractLsb' 0 3

/-- d[0] selects M, d[1] selects D, d[2] selects A (R55, R201). -/
def Dest.ofBits (d : BitVec 3) : Dest := ⟨d.getLsbD 0, d.getLsbD 1, d.getLsbD 2⟩

/-- The three bits of a destination mask, A D M from the most significant (R55). -/
def Dest.bits (d : Dest) : BitVec 3 := BitVec.ofBool d.toA ++ BitVec.ofBool d.toD ++ BitVec.ofBool d.toM

/-- The jump codes 0..7 in the order of R190. -/
def Jump.ofBits (j : BitVec 3) : Jump :=
  match j.getLsbD 2, j.getLsbD 1, j.getLsbD 0 with
  | false, false, false => .never
  | false, false, true => .jgt
  | false, true, false => .jeq
  | false, true, true => .jge
  | true, false, false => .jlt
  | true, false, true => .jne
  | true, true, false => .jle
  | true, true, true => .jmp

/-- The code of a jump condition (R190 to R198). -/
def Jump.bits : Jump → BitVec 3
  | .never => 0b000#3
  | .jgt => 0b001#3
  | .jeq => 0b010#3
  | .jge => 0b011#3
  | .jlt => 0b100#3
  | .jne => 0b101#3
  | .jle => 0b110#3
  | .jmp => 0b111#3

/-- The value field v = w[14:0] of an address word (R52, R59). -/
def valueOf (w : Word) : BitVec 15 := w.extractLsb' 0 15

/-- The three fields of a compute word read back: destination, computation, jump (R59, R101). -/
def fieldsOf (w : Word) : BitVec 3 × BitVec 7 × BitVec 3 := (destBitsOf w, comp7Of w, jumpBitsOf w)

/-- The destination mask of a compute word. -/
def destOf (w : Word) : Dest := Dest.ofBits (destBitsOf w)

/-- The jump condition of a compute word. -/
def jumpOf (w : Word) : Jump := Jump.ofBits (jumpBitsOf w)

/-! ### Constructors (R57, R58) -/

/-- R57: the sign bit of the argument is cleared; total. -/
def constructAddress (v : Word) : Word := v &&& 0x7FFF#16

/-- R58: `0xE000 | (comp7 << 6) | (d << 3) | j`; total, every triple is accepted. -/
def constructCompute (d : BitVec 3) (comp7 : BitVec 7) (j : BitVec 3) : Word :=
  0xE000#16 ||| (comp7.setWidth 16 <<< 6) ||| (d.setWidth 16 <<< 3) ||| j.setWidth 16

/-- The word of an invalid prefix and its 13 low bits (R65). -/
def invalidWord (high : BitVec 3) (low : BitVec 13) : Word := high ++ low

/-- The control pattern and mode joined into comp7 = a ++ c (R54). -/
def comp7Join (m : Mode) (c : BitVec 6) : BitVec 7 :=
  match m with
  | .aMode => 0b0#1 ++ c
  | .mMode => 0b1#1 ++ c

/-! ### The decoder -/

/-- The 64 control patterns with a = 0 (R62, R68): a closed match on the six bits zx nx zy ny f no, no default arm. -/
def decodeAMode (c : BitVec 6) (dest : Dest) (jump : Jump) : Instr :=
  match c.getLsbD 5, c.getLsbD 4, c.getLsbD 3, c.getLsbD 2, c.getLsbD 1, c.getLsbD 0 with
  | false, false, false, false, false, false => .dAndA dest jump
  | false, false, false, false, false, true => .uA000001 dest jump
  | false, false, false, false, true, false => .dPlusA dest jump
  | false, false, false, false, true, true => .uA000011 dest jump
  | false, false, false, true, false, false => .uA000100 dest jump
  | false, false, false, true, false, true => .uA000101 dest jump
  | false, false, false, true, true, false => .uA000110 dest jump
  | false, false, false, true, true, true => .aMinusD dest jump
  | false, false, true, false, false, false => .uA001000 dest jump
  | false, false, true, false, false, true => .uA001001 dest jump
  | false, false, true, false, true, false => .uA001010 dest jump
  | false, false, true, false, true, true => .uA001011 dest jump
  | false, false, true, true, false, false => .compD dest jump
  | false, false, true, true, false, true => .notD dest jump
  | false, false, true, true, true, false => .dMinus1 dest jump
  | false, false, true, true, true, true => .negD dest jump
  | false, true, false, false, false, false => .uA010000 dest jump
  | false, true, false, false, false, true => .uA010001 dest jump
  | false, true, false, false, true, false => .uA010010 dest jump
  | false, true, false, false, true, true => .dMinusA dest jump
  | false, true, false, true, false, false => .uA010100 dest jump
  | false, true, false, true, false, true => .dOrA dest jump
  | false, true, false, true, true, false => .uA010110 dest jump
  | false, true, false, true, true, true => .uA010111 dest jump
  | false, true, true, false, false, false => .uA011000 dest jump
  | false, true, true, false, false, true => .uA011001 dest jump
  | false, true, true, false, true, false => .uA011010 dest jump
  | false, true, true, false, true, true => .uA011011 dest jump
  | false, true, true, true, false, false => .uA011100 dest jump
  | false, true, true, true, false, true => .uA011101 dest jump
  | false, true, true, true, true, false => .uA011110 dest jump
  | false, true, true, true, true, true => .dPlus1 dest jump
  | true, false, false, false, false, false => .uA100000 dest jump
  | true, false, false, false, false, true => .uA100001 dest jump
  | true, false, false, false, true, false => .uA100010 dest jump
  | true, false, false, false, true, true => .uA100011 dest jump
  | true, false, false, true, false, false => .uA100100 dest jump
  | true, false, false, true, false, true => .uA100101 dest jump
  | true, false, false, true, true, false => .uA100110 dest jump
  | true, false, false, true, true, true => .uA100111 dest jump
  | true, false, true, false, false, false => .uA101000 dest jump
  | true, false, true, false, false, true => .uA101001 dest jump
  | true, false, true, false, true, false => .zero dest jump
  | true, false, true, false, true, true => .uA101011 dest jump
  | true, false, true, true, false, false => .uA101100 dest jump
  | true, false, true, true, false, true => .uA101101 dest jump
  | true, false, true, true, true, false => .uA101110 dest jump
  | true, false, true, true, true, true => .uA101111 dest jump
  | true, true, false, false, false, false => .compA dest jump
  | true, true, false, false, false, true => .notA dest jump
  | true, true, false, false, true, false => .aMinus1 dest jump
  | true, true, false, false, true, true => .negA dest jump
  | true, true, false, true, false, false => .uA110100 dest jump
  | true, true, false, true, false, true => .uA110101 dest jump
  | true, true, false, true, true, false => .uA110110 dest jump
  | true, true, false, true, true, true => .aPlus1 dest jump
  | true, true, true, false, false, false => .uA111000 dest jump
  | true, true, true, false, false, true => .uA111001 dest jump
  | true, true, true, false, true, false => .minusOne dest jump
  | true, true, true, false, true, true => .uA111011 dest jump
  | true, true, true, true, false, false => .uA111100 dest jump
  | true, true, true, true, false, true => .uA111101 dest jump
  | true, true, true, true, true, false => .uA111110 dest jump
  | true, true, true, true, true, true => .one dest jump

/-- The 64 control patterns with a = 1 (R62, R68): a closed match on the six bits zx nx zy ny f no, no default arm. -/
def decodeMMode (c : BitVec 6) (dest : Dest) (jump : Jump) : Instr :=
  match c.getLsbD 5, c.getLsbD 4, c.getLsbD 3, c.getLsbD 2, c.getLsbD 1, c.getLsbD 0 with
  | false, false, false, false, false, false => .dAndM dest jump
  | false, false, false, false, false, true => .uM000001 dest jump
  | false, false, false, false, true, false => .dPlusM dest jump
  | false, false, false, false, true, true => .uM000011 dest jump
  | false, false, false, true, false, false => .uM000100 dest jump
  | false, false, false, true, false, true => .uM000101 dest jump
  | false, false, false, true, true, false => .uM000110 dest jump
  | false, false, false, true, true, true => .mMinusD dest jump
  | false, false, true, false, false, false => .uM001000 dest jump
  | false, false, true, false, false, true => .uM001001 dest jump
  | false, false, true, false, true, false => .uM001010 dest jump
  | false, false, true, false, true, true => .uM001011 dest jump
  | false, false, true, true, false, false => .uM001100 dest jump
  | false, false, true, true, false, true => .uM001101 dest jump
  | false, false, true, true, true, false => .uM001110 dest jump
  | false, false, true, true, true, true => .uM001111 dest jump
  | false, true, false, false, false, false => .uM010000 dest jump
  | false, true, false, false, false, true => .uM010001 dest jump
  | false, true, false, false, true, false => .uM010010 dest jump
  | false, true, false, false, true, true => .dMinusM dest jump
  | false, true, false, true, false, false => .uM010100 dest jump
  | false, true, false, true, false, true => .dOrM dest jump
  | false, true, false, true, true, false => .uM010110 dest jump
  | false, true, false, true, true, true => .uM010111 dest jump
  | false, true, true, false, false, false => .uM011000 dest jump
  | false, true, true, false, false, true => .uM011001 dest jump
  | false, true, true, false, true, false => .uM011010 dest jump
  | false, true, true, false, true, true => .uM011011 dest jump
  | false, true, true, true, false, false => .uM011100 dest jump
  | false, true, true, true, false, true => .uM011101 dest jump
  | false, true, true, true, true, false => .uM011110 dest jump
  | false, true, true, true, true, true => .uM011111 dest jump
  | true, false, false, false, false, false => .uM100000 dest jump
  | true, false, false, false, false, true => .uM100001 dest jump
  | true, false, false, false, true, false => .uM100010 dest jump
  | true, false, false, false, true, true => .uM100011 dest jump
  | true, false, false, true, false, false => .uM100100 dest jump
  | true, false, false, true, false, true => .uM100101 dest jump
  | true, false, false, true, true, false => .uM100110 dest jump
  | true, false, false, true, true, true => .uM100111 dest jump
  | true, false, true, false, false, false => .uM101000 dest jump
  | true, false, true, false, false, true => .uM101001 dest jump
  | true, false, true, false, true, false => .uM101010 dest jump
  | true, false, true, false, true, true => .uM101011 dest jump
  | true, false, true, true, false, false => .uM101100 dest jump
  | true, false, true, true, false, true => .uM101101 dest jump
  | true, false, true, true, true, false => .uM101110 dest jump
  | true, false, true, true, true, true => .uM101111 dest jump
  | true, true, false, false, false, false => .compM dest jump
  | true, true, false, false, false, true => .notM dest jump
  | true, true, false, false, true, false => .mMinus1 dest jump
  | true, true, false, false, true, true => .negM dest jump
  | true, true, false, true, false, false => .uM110100 dest jump
  | true, true, false, true, false, true => .uM110101 dest jump
  | true, true, false, true, true, false => .uM110110 dest jump
  | true, true, false, true, true, true => .mPlus1 dest jump
  | true, true, true, false, false, false => .uM111000 dest jump
  | true, true, true, false, false, true => .uM111001 dest jump
  | true, true, true, false, true, false => .uM111010 dest jump
  | true, true, true, false, true, true => .uM111011 dest jump
  | true, true, true, true, false, false => .uM111100 dest jump
  | true, true, true, true, false, true => .uM111101 dest jump
  | true, true, true, true, true, false => .uM111110 dest jump
  | true, true, true, true, true, true => .uM111111 dest jump

/-- The decoder, total on 16-bit words (R50, R51, R68). Words of the three invalid prefixes decode to the instructions
named after the prefix, never to a neighbour (R65). -/
def decode (w : Word) : Instr :=
  match classify w with
  | .address => .addressValue w
  | .compute =>
    match modeOf w with
    | .aMode => decodeAMode (controlOf w) (destOf w) (jumpOf w)
    | .mMode => decodeMMode (controlOf w) (destOf w) (jumpOf w)
  | .invalid =>
    match w.getLsbD 14, w.getLsbD 13 with
    | false, false => .illegal100 (w.extractLsb' 0 13)
    | false, true => .illegal101 (w.extractLsb' 0 13)
    | true, _ => .illegal110 (w.extractLsb' 0 13)

/-- The host's reading of one opcode-table word of `nbits` bits: the bits of `w` above `nbits` are 0; longer than one word
is no instruction (R50, R67). -/
def decodeTableWord (nbits w : Nat) : Option Instr :=
  if nbits ≤ 16 then some (decode (BitVec.ofNat 16 (w % 2 ^ nbits))) else none

/-! ### The encoder -/

/-- The word of an instruction, row by row from the encodings of 30_encoding.md and 42_alu_table.md. -/
def encode : Instr → Word
  | .addressValue value => constructAddress value
  | .dAndA dest jump => constructCompute dest.bits 0b0000000#7 jump.bits
  | .uA000001 dest jump => constructCompute dest.bits 0b0000001#7 jump.bits
  | .dPlusA dest jump => constructCompute dest.bits 0b0000010#7 jump.bits
  | .uA000011 dest jump => constructCompute dest.bits 0b0000011#7 jump.bits
  | .uA000100 dest jump => constructCompute dest.bits 0b0000100#7 jump.bits
  | .uA000101 dest jump => constructCompute dest.bits 0b0000101#7 jump.bits
  | .uA000110 dest jump => constructCompute dest.bits 0b0000110#7 jump.bits
  | .aMinusD dest jump => constructCompute dest.bits 0b0000111#7 jump.bits
  | .uA001000 dest jump => constructCompute dest.bits 0b0001000#7 jump.bits
  | .uA001001 dest jump => constructCompute dest.bits 0b0001001#7 jump.bits
  | .uA001010 dest jump => constructCompute dest.bits 0b0001010#7 jump.bits
  | .uA001011 dest jump => constructCompute dest.bits 0b0001011#7 jump.bits
  | .compD dest jump => constructCompute dest.bits 0b0001100#7 jump.bits
  | .notD dest jump => constructCompute dest.bits 0b0001101#7 jump.bits
  | .dMinus1 dest jump => constructCompute dest.bits 0b0001110#7 jump.bits
  | .negD dest jump => constructCompute dest.bits 0b0001111#7 jump.bits
  | .uA010000 dest jump => constructCompute dest.bits 0b0010000#7 jump.bits
  | .uA010001 dest jump => constructCompute dest.bits 0b0010001#7 jump.bits
  | .uA010010 dest jump => constructCompute dest.bits 0b0010010#7 jump.bits
  | .dMinusA dest jump => constructCompute dest.bits 0b0010011#7 jump.bits
  | .uA010100 dest jump => constructCompute dest.bits 0b0010100#7 jump.bits
  | .dOrA dest jump => constructCompute dest.bits 0b0010101#7 jump.bits
  | .uA010110 dest jump => constructCompute dest.bits 0b0010110#7 jump.bits
  | .uA010111 dest jump => constructCompute dest.bits 0b0010111#7 jump.bits
  | .uA011000 dest jump => constructCompute dest.bits 0b0011000#7 jump.bits
  | .uA011001 dest jump => constructCompute dest.bits 0b0011001#7 jump.bits
  | .uA011010 dest jump => constructCompute dest.bits 0b0011010#7 jump.bits
  | .uA011011 dest jump => constructCompute dest.bits 0b0011011#7 jump.bits
  | .uA011100 dest jump => constructCompute dest.bits 0b0011100#7 jump.bits
  | .uA011101 dest jump => constructCompute dest.bits 0b0011101#7 jump.bits
  | .uA011110 dest jump => constructCompute dest.bits 0b0011110#7 jump.bits
  | .dPlus1 dest jump => constructCompute dest.bits 0b0011111#7 jump.bits
  | .uA100000 dest jump => constructCompute dest.bits 0b0100000#7 jump.bits
  | .uA100001 dest jump => constructCompute dest.bits 0b0100001#7 jump.bits
  | .uA100010 dest jump => constructCompute dest.bits 0b0100010#7 jump.bits
  | .uA100011 dest jump => constructCompute dest.bits 0b0100011#7 jump.bits
  | .uA100100 dest jump => constructCompute dest.bits 0b0100100#7 jump.bits
  | .uA100101 dest jump => constructCompute dest.bits 0b0100101#7 jump.bits
  | .uA100110 dest jump => constructCompute dest.bits 0b0100110#7 jump.bits
  | .uA100111 dest jump => constructCompute dest.bits 0b0100111#7 jump.bits
  | .uA101000 dest jump => constructCompute dest.bits 0b0101000#7 jump.bits
  | .uA101001 dest jump => constructCompute dest.bits 0b0101001#7 jump.bits
  | .zero dest jump => constructCompute dest.bits 0b0101010#7 jump.bits
  | .uA101011 dest jump => constructCompute dest.bits 0b0101011#7 jump.bits
  | .uA101100 dest jump => constructCompute dest.bits 0b0101100#7 jump.bits
  | .uA101101 dest jump => constructCompute dest.bits 0b0101101#7 jump.bits
  | .uA101110 dest jump => constructCompute dest.bits 0b0101110#7 jump.bits
  | .uA101111 dest jump => constructCompute dest.bits 0b0101111#7 jump.bits
  | .compA dest jump => constructCompute dest.bits 0b0110000#7 jump.bits
  | .notA dest jump => constructCompute dest.bits 0b0110001#7 jump.bits
  | .aMinus1 dest jump => constructCompute dest.bits 0b0110010#7 jump.bits
  | .negA dest jump => constructCompute dest.bits 0b0110011#7 jump.bits
  | .uA110100 dest jump => constructCompute dest.bits 0b0110100#7 jump.bits
  | .uA110101 dest jump => constructCompute dest.bits 0b0110101#7 jump.bits
  | .uA110110 dest jump => constructCompute dest.bits 0b0110110#7 jump.bits
  | .aPlus1 dest jump => constructCompute dest.bits 0b0110111#7 jump.bits
  | .uA111000 dest jump => constructCompute dest.bits 0b0111000#7 jump.bits
  | .uA111001 dest jump => constructCompute dest.bits 0b0111001#7 jump.bits
  | .minusOne dest jump => constructCompute dest.bits 0b0111010#7 jump.bits
  | .uA111011 dest jump => constructCompute dest.bits 0b0111011#7 jump.bits
  | .uA111100 dest jump => constructCompute dest.bits 0b0111100#7 jump.bits
  | .uA111101 dest jump => constructCompute dest.bits 0b0111101#7 jump.bits
  | .uA111110 dest jump => constructCompute dest.bits 0b0111110#7 jump.bits
  | .one dest jump => constructCompute dest.bits 0b0111111#7 jump.bits
  | .dAndM dest jump => constructCompute dest.bits 0b1000000#7 jump.bits
  | .uM000001 dest jump => constructCompute dest.bits 0b1000001#7 jump.bits
  | .dPlusM dest jump => constructCompute dest.bits 0b1000010#7 jump.bits
  | .uM000011 dest jump => constructCompute dest.bits 0b1000011#7 jump.bits
  | .uM000100 dest jump => constructCompute dest.bits 0b1000100#7 jump.bits
  | .uM000101 dest jump => constructCompute dest.bits 0b1000101#7 jump.bits
  | .uM000110 dest jump => constructCompute dest.bits 0b1000110#7 jump.bits
  | .mMinusD dest jump => constructCompute dest.bits 0b1000111#7 jump.bits
  | .uM001000 dest jump => constructCompute dest.bits 0b1001000#7 jump.bits
  | .uM001001 dest jump => constructCompute dest.bits 0b1001001#7 jump.bits
  | .uM001010 dest jump => constructCompute dest.bits 0b1001010#7 jump.bits
  | .uM001011 dest jump => constructCompute dest.bits 0b1001011#7 jump.bits
  | .uM001100 dest jump => constructCompute dest.bits 0b1001100#7 jump.bits
  | .uM001101 dest jump => constructCompute dest.bits 0b1001101#7 jump.bits
  | .uM001110 dest jump => constructCompute dest.bits 0b1001110#7 jump.bits
  | .uM001111 dest jump => constructCompute dest.bits 0b1001111#7 jump.bits
  | .uM010000 dest jump => constructCompute dest.bits 0b1010000#7 jump.bits
  | .uM010001 dest jump => constructCompute dest.bits 0b1010001#7 jump.bits
  | .uM010010 dest jump => constructCompute dest.bits 0b1010010#7 jump.bits
  | .dMinusM dest jump => constructCompute dest.bits 0b1010011#7 jump.bits
  | .uM010100 dest jump => constructCompute dest.bits 0b1010100#7 jump.bits
  | .dOrM dest jump => constructCompute dest.bits 0b1010101#7 jump.bits
  | .uM010110 dest jump => constructCompute dest.bits 0b1010110#7 jump.bits
  | .uM010111 dest jump => constructCompute dest.bits 0b1010111#7 jump.bits
  | .uM011000 dest jump => constructCompute dest.bits 0b1011000#7 jump.bits
  | .uM011001 dest jump => constructCompute dest.bits 0b1011001#7 jump.bits
  | .uM011010 dest jump => constructCompute dest.bits 0b1011010#7 jump.bits
  | .uM011011 dest jump => constructCompute dest.bits 0b1011011#7 jump.bits
  | .uM011100 dest jump => constructCompute dest.bits 0b1011100#7 jump.bits
  | .uM011101 dest jump => constructCompute dest.bits 0b1011101#7 jump.bits
  | .uM011110 dest jump => constructCompute dest.bits 0b1011110#7 jump.bits
  | .uM011111 dest jump => constructCompute dest.bits 0b1011111#7 jump.bits
  | .uM100000 dest jump => constructCompute dest.bits 0b1100000#7 jump.bits
  | .uM100001 dest jump => constructCompute dest.bits 0b1100001#7 jump.bits
  | .uM100010 dest jump => constructCompute dest.bits 0b1100010#7 jump.bits
  | .uM100011 dest jump => constructCompute dest.bits 0b1100011#7 jump.bits
  | .uM100100 dest jump => constructCompute dest.bits 0b1100100#7 jump.bits
  | .uM100101 dest jump => constructCompute dest.bits 0b1100101#7 jump.bits
  | .uM100110 dest jump => constructCompute dest.bits 0b1100110#7 jump.bits
  | .uM100111 dest jump => constructCompute dest.bits 0b1100111#7 jump.bits
  | .uM101000 dest jump => constructCompute dest.bits 0b1101000#7 jump.bits
  | .uM101001 dest jump => constructCompute dest.bits 0b1101001#7 jump.bits
  | .uM101010 dest jump => constructCompute dest.bits 0b1101010#7 jump.bits
  | .uM101011 dest jump => constructCompute dest.bits 0b1101011#7 jump.bits
  | .uM101100 dest jump => constructCompute dest.bits 0b1101100#7 jump.bits
  | .uM101101 dest jump => constructCompute dest.bits 0b1101101#7 jump.bits
  | .uM101110 dest jump => constructCompute dest.bits 0b1101110#7 jump.bits
  | .uM101111 dest jump => constructCompute dest.bits 0b1101111#7 jump.bits
  | .compM dest jump => constructCompute dest.bits 0b1110000#7 jump.bits
  | .notM dest jump => constructCompute dest.bits 0b1110001#7 jump.bits
  | .mMinus1 dest jump => constructCompute dest.bits 0b1110010#7 jump.bits
  | .negM dest jump => constructCompute dest.bits 0b1110011#7 jump.bits
  | .uM110100 dest jump => constructCompute dest.bits 0b1110100#7 jump.bits
  | .uM110101 dest jump => constructCompute dest.bits 0b1110101#7 jump.bits
  | .uM110110 dest jump => constructCompute dest.bits 0b1110110#7 jump.bits
  | .mPlus1 dest jump => constructCompute dest.bits 0b1110111#7 jump.bits
  | .uM111000 dest jump => constructCompute dest.bits 0b1111000#7 jump.bits
  | .uM111001 dest jump => constructCompute dest.bits 0b1111001#7 jump.bits
  | .uM111010 dest jump => constructCompute dest.bits 0b1111010#7 jump.bits
  | .uM111011 dest jump => constructCompute dest.bits 0b1111011#7 jump.bits
  | .uM111100 dest jump => constructCompute dest.bits 0b1111100#7 jump.bits
  | .uM111101 dest jump => constructCompute dest.bits 0b1111101#7 jump.bits
  | .uM111110 dest jump => constructCompute dest.bits 0b1111110#7 jump.bits
  | .uM111111 dest jump => constructCompute dest.bits 0b1111111#7 jump.bits
  | .illegal100 low => invalidWord 0b100#3 low
  | .illegal101 low => invalidWord 0b101#3 low
  | .illegal110 low => invalidWord 0b110#3 low

end Sys2Proof
end

