-- ==== Sys2Proof/Config.lean ====
section
/-! DEFINITION. What an implementation fixes (the parameters of 00_scope.md R4) and the one value the spec leaves free. -/

namespace Sys2Proof

/-- The two parameters of R4 that a step depends on. They are plain data in the state, so a statement about every state is a
statement about every value of them; the defaults are the spec's. -/
structure Params where
  /-- `MEM_WORDS`: the data memory has the cells 0..MEM_WORDS-1 (R4, R15). -/
  memWords : Nat := 65535
  /-- `SKIP_REDUNDANT_SCREEN_WRITES` (R4, R41): a screen write of the value the cell already holds sets no display-changed bit. -/
  skipRedundantScreenWrites : Bool := false
  deriving DecidableEq, Repr

/-- The parameters the spec admits: the keyboard cell exists, `24576 < MEM_WORDS` (R36). -/
abbrev Params.wf (p : Params) : Prop := 24576 < p.memWords

/-- The pc after a fatal error is unspecified (R226, U9): a free value, one for each draw, bounded as R13 bounds every pc. -/
opaque Config.freePc : Nat → Fin 65537

end Sys2Proof
end

