-- ==== Sys2Proof/Machine/State.lean ====
section
/-! DEFINITION. The state of the core as plain data, the fatal errors of 60_exceptions.md, the reasons a step can stop, and the
state after reset. -/

namespace Sys2Proof.Machine

/-- The three fatal errors with the diagnostic the spec has them carry (R220, R225): the index of the failing instruction,
the raw word where one was fetched, the data address. -/
inductive FatalError where
  /-- pc >= L at the fetch (R223). -/
  | pcOutOfRange (index : Nat)
  /-- The fetched word is of neither class (R221). -/
  | decodeError (index : Nat) (word : Word)
  /-- A compute instruction reads or writes M at an address that does not exist (R222). -/
  | addressOutOfRange (index : Nat) (word : Word) (address : Nat)
  deriving DecidableEq, Repr

/-- The run status (R17). -/
inductive Status where
  | running
  | faulted (e : FatalError)
  deriving DecidableEq, Repr

/-- The data memory: the listed cells in rising order of address, none holding what an unlisted cell reads as. The
addressable unit is one 16-bit cell; the hardware has no bytes (R32, R37). -/
abbrev Memory := List (Nat × Word)

/-- What an unlisted cell reads as: every cell is 0 after reset (R21). -/
def Memory.unlisted : Word := 0#16

/-- The canonical form of a memory. -/
abbrev Memory.wf (m : Memory) : Prop :=
  List.Pairwise (fun p q => p.1 < q.1) m ∧ ∀ c ∈ m, c.2 ≠ Memory.unlisted

/-- Everything the spec gives the core (10_state.md section 1), the instruction array and the parameters of the run (R4, R14),
and the model's own counter of free values drawn. -/
structure State where
  /-- The address register (R10). -/
  A : Word
  /-- The data register (R11). -/
  D : Word
  /-- The index of the next word to fetch, 0..65536 (R13). -/
  pc : Nat
  /-- The data memory (R15). -/
  ram : Memory
  /-- The display-changed bit (R16). -/
  displayChanged : Bool
  /-- The run status (R17). -/
  status : Status
  /-- The instruction array, L = `prog.length` words (R14). No instruction writes it. -/
  prog : List Word
  /-- The parameters of the run (R4). No instruction writes them. -/
  params : Params
  /-- The model's own: how many free values have been drawn (log 2). -/
  draws : Nat
  deriving DecidableEq, Repr

/-- The state after construction with an empty instruction array (R21, R250, R251). -/
def State.reset : State where
  A := 0#16
  D := 0#16
  pc := 0
  ram := []
  displayChanged := false
  status := .running
  prog := []
  params := { memWords := 65535, skipRedundantScreenWrites := false }
  draws := 0

/-- Why a step stops. -/
inductive Fault where
  /-- Raised by `step` alone: a tick in status Faulted changes nothing and returns the same error (R226, R230).
  Safe: the spec gives a tick in that status no other effect. -/
  | faulted (e : FatalError)
  deriving DecidableEq, Repr

/-- Why there is no answer. -/
inductive Refusal where
  /-- Raised by an arm of `exec` for an instruction without a meaning; no arm does. Safe: nothing is claimed of it. -/
  | notModelled (mnemonic : String)
  /-- Raised by the host's construct for an instruction array longer than 65536 words (R4, D7). Safe: no core results. -/
  | programTooLong (length : Nat)
  /-- Raised by the host's read of a cell at or above MEM_WORDS, outside its surface (R236, U15). Safe: no value is given. -/
  | outsideHostSurface (address : Nat)
  deriving DecidableEq, Repr

/-- What a tick answers. -/
abbrev Result := Host.Outcome State Fault Refusal

end Sys2Proof.Machine
end

