-- ==== Sys2Proof/Machine/Ops.lean ====
section
/-! DEFINITION. The named operations over memory, registers and the program counter, the fetch, and taking a fatal error. -/

namespace Sys2Proof.Machine

/-! ### The address map (20_memory.md R33) -/

/-- KBD, the keyboard cell. -/
abbrev kbd : Nat := 24576

/-- SCREEN, the first cell of the screen region. -/
abbrev screen : Nat := 16384

/-- The screen region is `screenWords` cells long and ends at 24575. -/
abbrev screenWords : Nat := 8192

/-- Whether an address is in the screen region 16384..24575 (R40). -/
def inScreen (a : Nat) : Bool := decide (screen ≤ a) && decide (a < screen + screenWords)

/-! ### Cells -/

/-- The value of a cell (R35): what is listed, else what an unlisted cell reads as. -/
def Memory.read : Memory → Nat → Word
  | [], _ => Memory.unlisted
  | (b, v) :: rest, a => if a = b then v else Memory.read rest a

/-- The memory without the cell `a`. -/
def Memory.erase (m : Memory) (a : Nat) : Memory := m.filter (fun c => c.1 != a)

/-- List the cell `a` before the first cell of a higher address. -/
def Memory.insert : Memory → Nat → Word → Memory
  | [], a, v => [(a, v)]
  | c :: rest, a, v => if a < c.1 then (a, v) :: c :: rest else c :: Memory.insert rest a v

/-- `RAM[a] <- v`, in canonical form: a cell that gets the unlisted value is not listed. -/
def Memory.write (m : Memory) (a : Nat) (v : Word) : Memory :=
  if v = Memory.unlisted then Memory.erase m a else Memory.insert (Memory.erase m a) a v

/-! ### The two memory primitives (R35, R36) -/

/-- `MemRead(a, 1)` of R35 for the instruction `w` at index `idx`: the range check, then the cell. No side effect (R43). -/
def State.memRead (s : State) (idx : Nat) (w : Word) (a : Nat) : Except FatalError Word :=
  if s.params.memWords ≤ a then .error (.addressOutOfRange idx w a) else .ok (s.ram.read a)

/-- Whether a write of `v` to `a` reports a changed display (R41, with the parameter of R4). -/
def State.displayReport (s : State) (a : Nat) (v : Word) : Bool :=
  inScreen a && !(s.params.skipRedundantScreenWrites && s.ram.read a == v)

/-- `MemWrite(a, 1, v)` of R36 for the instruction `w` at index `idx`: the range check, the dropped keyboard write (R39),
the cell, the display-changed bit (R41). -/
def State.memWrite (s : State) (idx : Nat) (w : Word) (a : Nat) (v : Word) : Except FatalError State :=
  if s.params.memWords ≤ a then .error (.addressOutOfRange idx w a)
  else if a = kbd then .ok s
  else .ok { s with ram := s.ram.write a v, displayChanged := s.displayChanged || s.displayReport a v }

/-! ### Registers and the program counter -/

/-- `A <- v` (R10). -/
def State.setA (s : State) (v : Word) : State := { s with A := v }

/-- `D <- v` (R11). -/
def State.setD (s : State) (v : Word) : State := { s with D := v }

/-- `pc <- t` (R13). -/
def State.setPc (s : State) (t : Nat) : State := { s with pc := t }

/-- The unconditional advance of the fetch, no wrap-around (R13, R230). -/
def State.advance (s : State) : State := s.setPc (s.pc + 1)

/-- The word at index pc, none where pc >= L (R14, R31, R223). -/
def State.fetch (s : State) : Option Word := s.prog[s.pc]?

/-! ### Taking a fatal error (R226, R227) -/

/-- The one entry for all three errors: the status becomes Faulted with its diagnostic, the pc is unspecified (a free value,
U9), and A, D, RAM and display_changed keep their values. There is no handler and no return (R227). `s` is the state
before the failing instruction. -/
def State.takeFatal (s : State) (e : FatalError) : State :=
  { s with status := .faulted e, pc := (Config.freePc s.draws).val, draws := s.draws + 1 }

/-! ### The instruction array, from outside -/

/-- An instruction array with `w` at index `n`, lengthened with words 0 where it is too short. -/
def putWord : List Word → Nat → Word → List Word
  | [], 0, w => [w]
  | [], n + 1, w => 0#16 :: putWord [] n w
  | _ :: rest, 0, w => w :: rest
  | x :: rest, n + 1, w => x :: putWord rest n w

end Sys2Proof.Machine
end

