-- ==== Sys2Proof/Machine/Address.lean ====
section
/-! DEFINITION. The address instruction (40_address_instruction.md). -/

namespace Sys2Proof.Machine

/-- R90, `@value`: A gets the 15-bit constant zero-extended (R56); pc advances; nothing else changes. -/
def execAddressValue (value : Word) (s : State) : Result := .next (s.advance.setA (constructAddress value))

end Sys2Proof.Machine
end

