-- ==== Sys2Proof/Machine/Alu.lean ====
section
/-! DEFINITION. The ALU (41_compute_instruction.md R104): six steps under the control bits zx nx zy ny f no. -/

namespace Sys2Proof.Machine

/-- Steps 1 to 4 of R104 for one operand: zero it, then complement it. -/
def preset (z n : Bool) (x : Word) : Word :=
  let x1 := if z then 0#16 else x
  if n then ~~~x1 else x1

/-- `ALU(c, x, y)` of R104: c = zx nx zy ny f no from bit 5 down to bit 0; sums are modulo 65536 (R108). -/
def alu (c : BitVec 6) (x y : Word) : Word :=
  let x2 := preset (c.getLsbD 5) (c.getLsbD 4) x
  let y2 := preset (c.getLsbD 3) (c.getLsbD 2) y
  let o := if c.getLsbD 1 then x2 + y2 else x2 &&& y2
  if c.getLsbD 0 then ~~~o else o

end Sys2Proof.Machine
end

