-- ==== Sys2Proof/Machine/Flags.lean ====
section
/-! DEFINITION. The hardware keeps no flags (10_state.md R18); the jump condition tests the ALU result of its own instruction
(43_jump_and_dest.md R190). -/

namespace Sys2Proof.Machine

/-- `cond(j, v)` of R190: bit 2 selects "negative", bit 1 "zero", bit 0 "positive", on the signed value. -/
def jumpCond (j : Jump) (v : Word) : Bool :=
  (j.bits.getLsbD 2 && decide (v.signed < 0)) ||
  (j.bits.getLsbD 1 && decide (v.signed = 0)) ||
  (j.bits.getLsbD 0 && decide (0 < v.signed))

/-- The jump of R106: `pc <- target` if the condition holds, else the pc the fetch left. -/
def State.jumpIf (s : State) (taken : Bool) (target : Nat) : State := if taken then s.setPc target else s

end Sys2Proof.Machine
end

