-- ==== Sys2Proof/Machine/Operands.lean ====
section
/-! DEFINITION. The operand forms of a compute instruction: the effective address (20_memory.md R34), the second ALU operand
(41_compute_instruction.md R102) and the three destinations (43_jump_and_dest.md R201). -/

namespace Sys2Proof.Machine

/-- `ea = zext(old A)`, the one addressing mode (R34): operand address, write address and jump target. -/
def State.ea (s : State) : Nat := s.A.toNat

/-- The second operand y (R102): the value of A, or the cell A addresses, read whenever a = 1, whatever the pattern. -/
def State.operandY (s : State) (mode : Mode) (idx : Nat) (w : Word) : Except FatalError Word :=
  match mode with
  | .aMode => .ok s.A
  | .mMode => s.memRead idx w s.ea

/-- The M destination at the address `a` (R201, R211). -/
def State.storeM (s : State) (toM : Bool) (idx : Nat) (w : Word) (a : Nat) (v : Word) : Except FatalError State :=
  if toM then s.memWrite idx w a v else .ok s

/-- The A destination (R201). -/
def State.storeA (s : State) (toA : Bool) (v : Word) : State := if toA then s.setA v else s

/-- The D destination (R201). -/
def State.storeD (s : State) (toD : Bool) (v : Word) : State := if toD then s.setD v else s

end Sys2Proof.Machine
end

