-- ==== Sys2Proof/Machine/Compute.lean ====
section
/-! DEFINITION. The tick of a compute instruction after its fetch (41_compute_instruction.md R100), shared by the 128 meanings. -/

namespace Sys2Proof.Machine

/-- R100, step by step: resolve y (4a), compute from the old values (4b), decide the jump through the old A (4c), then write
M, A, D in that order (4d). An error leaves everything of the instruction undone: it is taken from the state before (R112). -/
def computeTick (mode : Mode) (c : BitVec 6) (dest : Dest) (jump : Jump) (s : State) : Result :=
  let w := constructCompute dest.bits (comp7Join mode c) jump.bits
  match s.operandY mode s.pc w with
  | .error e => .next (s.takeFatal e)
  | .ok y =>
    let comp := alu c s.D y
    match (s.advance.jumpIf (jumpCond jump comp) s.ea).storeM dest.toM s.pc w s.ea comp with
    | .error e => .next (s.takeFatal e)
    | .ok s' => .next ((s'.storeA dest.toA comp).storeD dest.toD comp)

end Sys2Proof.Machine
end

