-- ==== Sys2Proof/Machine/ComputeMMode.lean ====
section
/-! DEFINITION. The 64 compute instructions with mode bit a = 1: the second operand y is the cell RAM[A] (41_compute_instruction.md R102).
Each is one tick of R100 under its own control pattern; the result named beside it is the closed form of its rule in 42_alu_table.md. -/

namespace Sys2Proof.Machine

/-- R120, c = 000000, `D&M`: comp = D&RAM[A]. -/
def execDAndM (dest : Dest) (jump : Jump) (s : State) : Result := computeTick .mMode 0b000000#6 dest jump s

/-- R121, c = 000001, unsanctioned: comp = ~(D&RAM[A]). -/
def execUM000001 (dest : Dest) (jump : Jump) (s : State) : Result := computeTick .mMode 0b000001#6 dest jump s

/-- R122, c = 000010, `D+M`: comp = D+RAM[A]. -/
def execDPlusM (dest : Dest) (jump : Jump) (s : State) : Result := computeTick .mMode 0b000010#6 dest jump s

/-- R123, c = 000011, unsanctioned: comp = -(D+RAM[A])-1. -/
def execUM000011 (dest : Dest) (jump : Jump) (s : State) : Result := computeTick .mMode 0b000011#6 dest jump s

/-- R124, c = 000100, unsanctioned: comp = D&~RAM[A]. -/
def execUM000100 (dest : Dest) (jump : Jump) (s : State) : Result := computeTick .mMode 0b000100#6 dest jump s

/-- R125, c = 000101, unsanctioned: comp = ~D|RAM[A]. -/
def execUM000101 (dest : Dest) (jump : Jump) (s : State) : Result := computeTick .mMode 0b000101#6 dest jump s

/-- R126, c = 000110, unsanctioned: comp = D-RAM[A]-1. -/
def execUM000110 (dest : Dest) (jump : Jump) (s : State) : Result := computeTick .mMode 0b000110#6 dest jump s

/-- R127, c = 000111, `M-D`: comp = RAM[A]-D. -/
def execMMinusD (dest : Dest) (jump : Jump) (s : State) : Result := computeTick .mMode 0b000111#6 dest jump s

/-- R128, c = 001000, unsanctioned: comp = 0. -/
def execUM001000 (dest : Dest) (jump : Jump) (s : State) : Result := computeTick .mMode 0b001000#6 dest jump s

/-- R129, c = 001001, unsanctioned: comp = -1. -/
def execUM001001 (dest : Dest) (jump : Jump) (s : State) : Result := computeTick .mMode 0b001001#6 dest jump s

/-- R130, c = 001010, unsanctioned: comp = D. -/
def execUM001010 (dest : Dest) (jump : Jump) (s : State) : Result := computeTick .mMode 0b001010#6 dest jump s

/-- R131, c = 001011, unsanctioned: comp = ~D. -/
def execUM001011 (dest : Dest) (jump : Jump) (s : State) : Result := computeTick .mMode 0b001011#6 dest jump s

/-- R132, c = 001100, unsanctioned: comp = D. -/
def execUM001100 (dest : Dest) (jump : Jump) (s : State) : Result := computeTick .mMode 0b001100#6 dest jump s

/-- R133, c = 001101, unsanctioned: comp = ~D. -/
def execUM001101 (dest : Dest) (jump : Jump) (s : State) : Result := computeTick .mMode 0b001101#6 dest jump s

/-- R134, c = 001110, unsanctioned: comp = D-1. -/
def execUM001110 (dest : Dest) (jump : Jump) (s : State) : Result := computeTick .mMode 0b001110#6 dest jump s

/-- R135, c = 001111, unsanctioned: comp = -D. -/
def execUM001111 (dest : Dest) (jump : Jump) (s : State) : Result := computeTick .mMode 0b001111#6 dest jump s

/-- R136, c = 010000, unsanctioned: comp = ~D&RAM[A]. -/
def execUM010000 (dest : Dest) (jump : Jump) (s : State) : Result := computeTick .mMode 0b010000#6 dest jump s

/-- R137, c = 010001, unsanctioned: comp = D|~RAM[A]. -/
def execUM010001 (dest : Dest) (jump : Jump) (s : State) : Result := computeTick .mMode 0b010001#6 dest jump s

/-- R138, c = 010010, unsanctioned: comp = RAM[A]-D-1. -/
def execUM010010 (dest : Dest) (jump : Jump) (s : State) : Result := computeTick .mMode 0b010010#6 dest jump s

/-- R139, c = 010011, `D-M`: comp = D-RAM[A]. -/
def execDMinusM (dest : Dest) (jump : Jump) (s : State) : Result := computeTick .mMode 0b010011#6 dest jump s

/-- R140, c = 010100, unsanctioned: comp = ~(D|RAM[A]). -/
def execUM010100 (dest : Dest) (jump : Jump) (s : State) : Result := computeTick .mMode 0b010100#6 dest jump s

/-- R141, c = 010101, `D|M`: comp = D|RAM[A]. -/
def execDOrM (dest : Dest) (jump : Jump) (s : State) : Result := computeTick .mMode 0b010101#6 dest jump s

/-- R142, c = 010110, unsanctioned: comp = -(D+RAM[A])-2. -/
def execUM010110 (dest : Dest) (jump : Jump) (s : State) : Result := computeTick .mMode 0b010110#6 dest jump s

/-- R143, c = 010111, unsanctioned: comp = D+RAM[A]+1. -/
def execUM010111 (dest : Dest) (jump : Jump) (s : State) : Result := computeTick .mMode 0b010111#6 dest jump s

/-- R144, c = 011000, unsanctioned: comp = 0. -/
def execUM011000 (dest : Dest) (jump : Jump) (s : State) : Result := computeTick .mMode 0b011000#6 dest jump s

/-- R145, c = 011001, unsanctioned: comp = -1. -/
def execUM011001 (dest : Dest) (jump : Jump) (s : State) : Result := computeTick .mMode 0b011001#6 dest jump s

/-- R146, c = 011010, unsanctioned: comp = ~D. -/
def execUM011010 (dest : Dest) (jump : Jump) (s : State) : Result := computeTick .mMode 0b011010#6 dest jump s

/-- R147, c = 011011, unsanctioned: comp = D. -/
def execUM011011 (dest : Dest) (jump : Jump) (s : State) : Result := computeTick .mMode 0b011011#6 dest jump s

/-- R148, c = 011100, unsanctioned: comp = ~D. -/
def execUM011100 (dest : Dest) (jump : Jump) (s : State) : Result := computeTick .mMode 0b011100#6 dest jump s

/-- R149, c = 011101, unsanctioned: comp = D. -/
def execUM011101 (dest : Dest) (jump : Jump) (s : State) : Result := computeTick .mMode 0b011101#6 dest jump s

/-- R150, c = 011110, unsanctioned: comp = -D-2. -/
def execUM011110 (dest : Dest) (jump : Jump) (s : State) : Result := computeTick .mMode 0b011110#6 dest jump s

/-- R151, c = 011111, unsanctioned: comp = D+1. -/
def execUM011111 (dest : Dest) (jump : Jump) (s : State) : Result := computeTick .mMode 0b011111#6 dest jump s

/-- R152, c = 100000, unsanctioned: comp = 0. -/
def execUM100000 (dest : Dest) (jump : Jump) (s : State) : Result := computeTick .mMode 0b100000#6 dest jump s

/-- R153, c = 100001, unsanctioned: comp = -1. -/
def execUM100001 (dest : Dest) (jump : Jump) (s : State) : Result := computeTick .mMode 0b100001#6 dest jump s

/-- R154, c = 100010, unsanctioned: comp = RAM[A]. -/
def execUM100010 (dest : Dest) (jump : Jump) (s : State) : Result := computeTick .mMode 0b100010#6 dest jump s

/-- R155, c = 100011, unsanctioned: comp = ~RAM[A]. -/
def execUM100011 (dest : Dest) (jump : Jump) (s : State) : Result := computeTick .mMode 0b100011#6 dest jump s

/-- R156, c = 100100, unsanctioned: comp = 0. -/
def execUM100100 (dest : Dest) (jump : Jump) (s : State) : Result := computeTick .mMode 0b100100#6 dest jump s

/-- R157, c = 100101, unsanctioned: comp = -1. -/
def execUM100101 (dest : Dest) (jump : Jump) (s : State) : Result := computeTick .mMode 0b100101#6 dest jump s

/-- R158, c = 100110, unsanctioned: comp = ~RAM[A]. -/
def execUM100110 (dest : Dest) (jump : Jump) (s : State) : Result := computeTick .mMode 0b100110#6 dest jump s

/-- R159, c = 100111, unsanctioned: comp = RAM[A]. -/
def execUM100111 (dest : Dest) (jump : Jump) (s : State) : Result := computeTick .mMode 0b100111#6 dest jump s

/-- R160, c = 101000, unsanctioned: comp = 0. -/
def execUM101000 (dest : Dest) (jump : Jump) (s : State) : Result := computeTick .mMode 0b101000#6 dest jump s

/-- R161, c = 101001, unsanctioned: comp = -1. -/
def execUM101001 (dest : Dest) (jump : Jump) (s : State) : Result := computeTick .mMode 0b101001#6 dest jump s

/-- R162, c = 101010, unsanctioned: comp = 0. -/
def execUM101010 (dest : Dest) (jump : Jump) (s : State) : Result := computeTick .mMode 0b101010#6 dest jump s

/-- R163, c = 101011, unsanctioned: comp = -1. -/
def execUM101011 (dest : Dest) (jump : Jump) (s : State) : Result := computeTick .mMode 0b101011#6 dest jump s

/-- R164, c = 101100, unsanctioned: comp = 0. -/
def execUM101100 (dest : Dest) (jump : Jump) (s : State) : Result := computeTick .mMode 0b101100#6 dest jump s

/-- R165, c = 101101, unsanctioned: comp = -1. -/
def execUM101101 (dest : Dest) (jump : Jump) (s : State) : Result := computeTick .mMode 0b101101#6 dest jump s

/-- R166, c = 101110, unsanctioned: comp = -1. -/
def execUM101110 (dest : Dest) (jump : Jump) (s : State) : Result := computeTick .mMode 0b101110#6 dest jump s

/-- R167, c = 101111, unsanctioned: comp = 0. -/
def execUM101111 (dest : Dest) (jump : Jump) (s : State) : Result := computeTick .mMode 0b101111#6 dest jump s

/-- R168, c = 110000, `M`: comp = RAM[A]. -/
def execCompM (dest : Dest) (jump : Jump) (s : State) : Result := computeTick .mMode 0b110000#6 dest jump s

/-- R169, c = 110001, `!M`: comp = ~RAM[A]. -/
def execNotM (dest : Dest) (jump : Jump) (s : State) : Result := computeTick .mMode 0b110001#6 dest jump s

/-- R170, c = 110010, `M-1`: comp = RAM[A]-1. -/
def execMMinus1 (dest : Dest) (jump : Jump) (s : State) : Result := computeTick .mMode 0b110010#6 dest jump s

/-- R171, c = 110011, `-M`: comp = -RAM[A]. -/
def execNegM (dest : Dest) (jump : Jump) (s : State) : Result := computeTick .mMode 0b110011#6 dest jump s

/-- R172, c = 110100, unsanctioned: comp = ~RAM[A]. -/
def execUM110100 (dest : Dest) (jump : Jump) (s : State) : Result := computeTick .mMode 0b110100#6 dest jump s

/-- R173, c = 110101, unsanctioned: comp = RAM[A]. -/
def execUM110101 (dest : Dest) (jump : Jump) (s : State) : Result := computeTick .mMode 0b110101#6 dest jump s

/-- R174, c = 110110, unsanctioned: comp = -RAM[A]-2. -/
def execUM110110 (dest : Dest) (jump : Jump) (s : State) : Result := computeTick .mMode 0b110110#6 dest jump s

/-- R175, c = 110111, `M+1`: comp = RAM[A]+1. -/
def execMPlus1 (dest : Dest) (jump : Jump) (s : State) : Result := computeTick .mMode 0b110111#6 dest jump s

/-- R176, c = 111000, unsanctioned: comp = 0. -/
def execUM111000 (dest : Dest) (jump : Jump) (s : State) : Result := computeTick .mMode 0b111000#6 dest jump s

/-- R177, c = 111001, unsanctioned: comp = -1. -/
def execUM111001 (dest : Dest) (jump : Jump) (s : State) : Result := computeTick .mMode 0b111001#6 dest jump s

/-- R178, c = 111010, unsanctioned: comp = -1. -/
def execUM111010 (dest : Dest) (jump : Jump) (s : State) : Result := computeTick .mMode 0b111010#6 dest jump s

/-- R179, c = 111011, unsanctioned: comp = 0. -/
def execUM111011 (dest : Dest) (jump : Jump) (s : State) : Result := computeTick .mMode 0b111011#6 dest jump s

/-- R180, c = 111100, unsanctioned: comp = -1. -/
def execUM111100 (dest : Dest) (jump : Jump) (s : State) : Result := computeTick .mMode 0b111100#6 dest jump s

/-- R181, c = 111101, unsanctioned: comp = 0. -/
def execUM111101 (dest : Dest) (jump : Jump) (s : State) : Result := computeTick .mMode 0b111101#6 dest jump s

/-- R182, c = 111110, unsanctioned: comp = -2. -/
def execUM111110 (dest : Dest) (jump : Jump) (s : State) : Result := computeTick .mMode 0b111110#6 dest jump s

/-- R183, c = 111111, unsanctioned: comp = 1. -/
def execUM111111 (dest : Dest) (jump : Jump) (s : State) : Result := computeTick .mMode 0b111111#6 dest jump s

end Sys2Proof.Machine
end

