-- ==== Sys2Proof/Machine/Illegal.lean ====
section
/-! DEFINITION. The invalid words (30_encoding.md R65): fetching one raises the fatal DecodeError (60_exceptions.md R221). -/

namespace Sys2Proof.Machine

/-- R221 for the prefix 100. -/
def execIllegal100 (low : BitVec 13) (s : State) : Result :=
  .next (s.takeFatal (.decodeError s.pc (invalidWord 0b100#3 low)))

/-- R221 for the prefix 101. -/
def execIllegal101 (low : BitVec 13) (s : State) : Result :=
  .next (s.takeFatal (.decodeError s.pc (invalidWord 0b101#3 low)))

/-- R221 for the prefix 110. -/
def execIllegal110 (low : BitVec 13) (s : State) : Result :=
  .next (s.takeFatal (.decodeError s.pc (invalidWord 0b110#3 low)))

end Sys2Proof.Machine
end

