-- ==== Sys2Proof/Machine/Dispatch.lean ====
section
/-! DEFINITION. The dispatch: one arm per constructor of `Instr`, each one direct call of its meaning. -/

namespace Sys2Proof.Machine

def exec (i : Instr) (s : State) : Host.Outcome State Fault Refusal :=
  match i with
  | .addressValue value => Sys2Proof.Machine.execAddressValue value s
  | .dAndA dest jump => Sys2Proof.Machine.execDAndA dest jump s
  | .uA000001 dest jump => Sys2Proof.Machine.execUA000001 dest jump s
  | .dPlusA dest jump => Sys2Proof.Machine.execDPlusA dest jump s
  | .uA000011 dest jump => Sys2Proof.Machine.execUA000011 dest jump s
  | .uA000100 dest jump => Sys2Proof.Machine.execUA000100 dest jump s
  | .uA000101 dest jump => Sys2Proof.Machine.execUA000101 dest jump s
  | .uA000110 dest jump => Sys2Proof.Machine.execUA000110 dest jump s
  | .aMinusD dest jump => Sys2Proof.Machine.execAMinusD dest jump s
  | .uA001000 dest jump => Sys2Proof.Machine.execUA001000 dest jump s
  | .uA001001 dest jump => Sys2Proof.Machine.execUA001001 dest jump s
  | .uA001010 dest jump => Sys2Proof.Machine.execUA001010 dest jump s
  | .uA001011 dest jump => Sys2Proof.Machine.execUA001011 dest jump s
  | .compD dest jump => Sys2Proof.Machine.execCompD dest jump s
  | .notD dest jump => Sys2Proof.Machine.execNotD dest jump s
  | .dMinus1 dest jump => Sys2Proof.Machine.execDMinus1 dest jump s
  | .negD dest jump => Sys2Proof.Machine.execNegD dest jump s
  | .uA010000 dest jump => Sys2Proof.Machine.execUA010000 dest jump s
  | .uA010001 dest jump => Sys2Proof.Machine.execUA010001 dest jump s
  | .uA010010 dest jump => Sys2Proof.Machine.execUA010010 dest jump s
  | .dMinusA dest jump => Sys2Proof.Machine.execDMinusA dest jump s
  | .uA010100 dest jump => Sys2Proof.Machine.execUA010100 dest jump s
  | .dOrA dest jump => Sys2Proof.Machine.execDOrA dest jump s
  | .uA010110 dest jump => Sys2Proof.Machine.execUA010110 dest jump s
  | .uA010111 dest jump => Sys2Proof.Machine.execUA010111 dest jump s
  | .uA011000 dest jump => Sys2Proof.Machine.execUA011000 dest jump s
  | .uA011001 dest jump => Sys2Proof.Machine.execUA011001 dest jump s
  | .uA011010 dest jump => Sys2Proof.Machine.execUA011010 dest jump s
  | .uA011011 dest jump => Sys2Proof.Machine.execUA011011 dest jump s
  | .uA011100 dest jump => Sys2Proof.Machine.execUA011100 dest jump s
  | .uA011101 dest jump => Sys2Proof.Machine.execUA011101 dest jump s
  | .uA011110 dest jump => Sys2Proof.Machine.execUA011110 dest jump s
  | .dPlus1 dest jump => Sys2Proof.Machine.execDPlus1 dest jump s
  | .uA100000 dest jump => Sys2Proof.Machine.execUA100000 dest jump s
  | .uA100001 dest jump => Sys2Proof.Machine.execUA100001 dest jump s
  | .uA100010 dest jump => Sys2Proof.Machine.execUA100010 dest jump s
  | .uA100011 dest jump => Sys2Proof.Machine.execUA100011 dest jump s
  | .uA100100 dest jump => Sys2Proof.Machine.execUA100100 dest jump s
  | .uA100101 dest jump => Sys2Proof.Machine.execUA100101 dest jump s
  | .uA100110 dest jump => Sys2Proof.Machine.execUA100110 dest jump s
  | .uA100111 dest jump => Sys2Proof.Machine.execUA100111 dest jump s
  | .uA101000 dest jump => Sys2Proof.Machine.execUA101000 dest jump s
  | .uA101001 dest jump => Sys2Proof.Machine.execUA101001 dest jump s
  | .zero dest jump => Sys2Proof.Machine.execZero dest jump s
  | .uA101011 dest jump => Sys2Proof.Machine.execUA101011 dest jump s
  | .uA101100 dest jump => Sys2Proof.Machine.execUA101100 dest jump s
  | .uA101101 dest jump => Sys2Proof.Machine.execUA101101 dest jump s
  | .uA101110 dest jump => Sys2Proof.Machine.execUA101110 dest jump s
  | .uA101111 dest jump => Sys2Proof.Machine.execUA101111 dest jump s
  | .compA dest jump => Sys2Proof.Machine.execCompA dest jump s
  | .notA dest jump => Sys2Proof.Machine.execNotA dest jump s
  | .aMinus1 dest jump => Sys2Proof.Machine.execAMinus1 dest jump s
  | .negA dest jump => Sys2Proof.Machine.execNegA dest jump s
  | .uA110100 dest jump => Sys2Proof.Machine.execUA110100 dest jump s
  | .uA110101 dest jump => Sys2Proof.Machine.execUA110101 dest jump s
  | .uA110110 dest jump => Sys2Proof.Machine.execUA110110 dest jump s
  | .aPlus1 dest jump => Sys2Proof.Machine.execAPlus1 dest jump s
  | .uA111000 dest jump => Sys2Proof.Machine.execUA111000 dest jump s
  | .uA111001 dest jump => Sys2Proof.Machine.execUA111001 dest jump s
  | .minusOne dest jump => Sys2Proof.Machine.execMinusOne dest jump s
  | .uA111011 dest jump => Sys2Proof.Machine.execUA111011 dest jump s
  | .uA111100 dest jump => Sys2Proof.Machine.execUA111100 dest jump s
  | .uA111101 dest jump => Sys2Proof.Machine.execUA111101 dest jump s
  | .uA111110 dest jump => Sys2Proof.Machine.execUA111110 dest jump s
  | .one dest jump => Sys2Proof.Machine.execOne dest jump s
  | .dAndM dest jump => Sys2Proof.Machine.execDAndM dest jump s
  | .uM000001 dest jump => Sys2Proof.Machine.execUM000001 dest jump s
  | .dPlusM dest jump => Sys2Proof.Machine.execDPlusM dest jump s
  | .uM000011 dest jump => Sys2Proof.Machine.execUM000011 dest jump s
  | .uM000100 dest jump => Sys2Proof.Machine.execUM000100 dest jump s
  | .uM000101 dest jump => Sys2Proof.Machine.execUM000101 dest jump s
  | .uM000110 dest jump => Sys2Proof.Machine.execUM000110 dest jump s
  | .mMinusD dest jump => Sys2Proof.Machine.execMMinusD dest jump s
  | .uM001000 dest jump => Sys2Proof.Machine.execUM001000 dest jump s
  | .uM001001 dest jump => Sys2Proof.Machine.execUM001001 dest jump s
  | .uM001010 dest jump => Sys2Proof.Machine.execUM001010 dest jump s
  | .uM001011 dest jump => Sys2Proof.Machine.execUM001011 dest jump s
  | .uM001100 dest jump => Sys2Proof.Machine.execUM001100 dest jump s
  | .uM001101 dest jump => Sys2Proof.Machine.execUM001101 dest jump s
  | .uM001110 dest jump => Sys2Proof.Machine.execUM001110 dest jump s
  | .uM001111 dest jump => Sys2Proof.Machine.execUM001111 dest jump s
  | .uM010000 dest jump => Sys2Proof.Machine.execUM010000 dest jump s
  | .uM010001 dest jump => Sys2Proof.Machine.execUM010001 dest jump s
  | .uM010010 dest jump => Sys2Proof.Machine.execUM010010 dest jump s
  | .dMinusM dest jump => Sys2Proof.Machine.execDMinusM dest jump s
  | .uM010100 dest jump => Sys2Proof.Machine.execUM010100 dest jump s
  | .dOrM dest jump => Sys2Proof.Machine.execDOrM dest jump s
  | .uM010110 dest jump => Sys2Proof.Machine.execUM010110 dest jump s
  | .uM010111 dest jump => Sys2Proof.Machine.execUM010111 dest jump s
  | .uM011000 dest jump => Sys2Proof.Machine.execUM011000 dest jump s
  | .uM011001 dest jump => Sys2Proof.Machine.execUM011001 dest jump s
  | .uM011010 dest jump => Sys2Proof.Machine.execUM011010 dest jump s
  | .uM011011 dest jump => Sys2Proof.Machine.execUM011011 dest jump s
  | .uM011100 dest jump => Sys2Proof.Machine.execUM011100 dest jump s
  | .uM011101 dest jump => Sys2Proof.Machine.execUM011101 dest jump s
  | .uM011110 dest jump => Sys2Proof.Machine.execUM011110 dest jump s
  | .uM011111 dest jump => Sys2Proof.Machine.execUM011111 dest jump s
  | .uM100000 dest jump => Sys2Proof.Machine.execUM100000 dest jump s
  | .uM100001 dest jump => Sys2Proof.Machine.execUM100001 dest jump s
  | .uM100010 dest jump => Sys2Proof.Machine.execUM100010 dest jump s
  | .uM100011 dest jump => Sys2Proof.Machine.execUM100011 dest jump s
  | .uM100100 dest jump => Sys2Proof.Machine.execUM100100 dest jump s
  | .uM100101 dest jump => Sys2Proof.Machine.execUM100101 dest jump s
  | .uM100110 dest jump => Sys2Proof.Machine.execUM100110 dest jump s
  | .uM100111 dest jump => Sys2Proof.Machine.execUM100111 dest jump s
  | .uM101000 dest jump => Sys2Proof.Machine.execUM101000 dest jump s
  | .uM101001 dest jump => Sys2Proof.Machine.execUM101001 dest jump s
  | .uM101010 dest jump => Sys2Proof.Machine.execUM101010 dest jump s
  | .uM101011 dest jump => Sys2Proof.Machine.execUM101011 dest jump s
  | .uM101100 dest jump => Sys2Proof.Machine.execUM101100 dest jump s
  | .uM101101 dest jump => Sys2Proof.Machine.execUM101101 dest jump s
  | .uM101110 dest jump => Sys2Proof.Machine.execUM101110 dest jump s
  | .uM101111 dest jump => Sys2Proof.Machine.execUM101111 dest jump s
  | .compM dest jump => Sys2Proof.Machine.execCompM dest jump s
  | .notM dest jump => Sys2Proof.Machine.execNotM dest jump s
  | .mMinus1 dest jump => Sys2Proof.Machine.execMMinus1 dest jump s
  | .negM dest jump => Sys2Proof.Machine.execNegM dest jump s
  | .uM110100 dest jump => Sys2Proof.Machine.execUM110100 dest jump s
  | .uM110101 dest jump => Sys2Proof.Machine.execUM110101 dest jump s
  | .uM110110 dest jump => Sys2Proof.Machine.execUM110110 dest jump s
  | .mPlus1 dest jump => Sys2Proof.Machine.execMPlus1 dest jump s
  | .uM111000 dest jump => Sys2Proof.Machine.execUM111000 dest jump s
  | .uM111001 dest jump => Sys2Proof.Machine.execUM111001 dest jump s
  | .uM111010 dest jump => Sys2Proof.Machine.execUM111010 dest jump s
  | .uM111011 dest jump => Sys2Proof.Machine.execUM111011 dest jump s
  | .uM111100 dest jump => Sys2Proof.Machine.execUM111100 dest jump s
  | .uM111101 dest jump => Sys2Proof.Machine.execUM111101 dest jump s
  | .uM111110 dest jump => Sys2Proof.Machine.execUM111110 dest jump s
  | .uM111111 dest jump => Sys2Proof.Machine.execUM111111 dest jump s
  | .illegal100 low => Sys2Proof.Machine.execIllegal100 low s
  | .illegal101 low => Sys2Proof.Machine.execIllegal101 low s
  | .illegal110 low => Sys2Proof.Machine.execIllegal110 low s

end Sys2Proof.Machine
end

