-- ==== Sys2Proof/Machine/Step.lean ====
section
/-! DEFINITION. The tick (60_exceptions.md R230). -/

namespace Sys2Proof.Machine

/-- One tick. In status Faulted it returns the error again (R226). Otherwise it fetches at pc (PcOutOfRange where there is no
word, R223), decodes and executes. The meaning advances the pc itself, so that a fatal error sees the index of its own instruction (R225). -/
def step (s : State) : Host.Outcome State Fault Refusal :=
  match s.status with
  | .faulted e => .fault (.faulted e)
  | .running =>
    match s.fetch with
    | none => .next (s.takeFatal (.pcOutOfRange s.pc))
    | some w => exec (decode w) s

/-- The state with the table word `w` of `nbits` bits where the next fetch reads, and a status in which the tick fetches.
A pc of 65536 indexes no word that can exist (R31), so then the word goes to index 0 and pc with it (log 6). -/
def State.withFetchWord (s : State) (nbits w : Nat) : State :=
  let at0 := if s.pc < 65536 then s.pc else 0
  { s with status := .running, pc := at0, prog := putWord s.prog at0 (BitVec.ofNat 16 (w % 2 ^ nbits)) }

end Sys2Proof.Machine
end

