-- ==== Sys2Proof/Machine/Format.lean ====
section
/-! DEFINITION. Format (30_encoding.md R83, R84): from a word to its canonical assembly text, partial. Text is a list of
characters. -/

namespace Sys2Proof.Machine

/-- Assembly text. -/
abbrev Text := List Char

/-- The sanctioned vocabulary (R63): the 28 values of comp7 that have a mnemonic, in the source's order. -/
def sanctioned : List (BitVec 7 × String) :=
  [(0b0101010#7, "0"), (0b0111111#7, "1"), (0b0111010#7, "-1"), (0b0001100#7, "D"),
   (0b0110000#7, "A"), (0b1110000#7, "M"), (0b0001101#7, "!D"), (0b0110001#7, "!A"),
   (0b1110001#7, "!M"), (0b0001111#7, "-D"), (0b0110011#7, "-A"), (0b1110011#7, "-M"),
   (0b0011111#7, "D+1"), (0b0110111#7, "A+1"), (0b1110111#7, "M+1"), (0b0001110#7, "D-1"),
   (0b0110010#7, "A-1"), (0b1110010#7, "M-1"), (0b0000010#7, "D+A"), (0b1000010#7, "D+M"),
   (0b0010011#7, "D-A"), (0b1010011#7, "D-M"), (0b0000111#7, "A-D"), (0b1000111#7, "M-D"),
   (0b0000000#7, "D&A"), (0b1000000#7, "D&M"), (0b0010101#7, "D|A"), (0b1010101#7, "D|M")]

/-- The mnemonic of a value of comp7; none for the 100 unsanctioned ones (R64, R84). -/
def compText (c7 : BitVec 7) : Option Text := (sanctioned.find? (fun r => r.1 == c7)).map (fun r => r.2.toList)

/-- The dest letters in the order A, M, D (R83): `M D MD A AM AD AMD` for d = 1..7. -/
def destText (d : Dest) : Text :=
  (if d.toA then ['A'] else []) ++ (if d.toM then ['M'] else []) ++ (if d.toD then ['D'] else [])

/-- The jump mnemonics (R77); "never" has none. -/
def jumpText : Jump → Text
  | .never => []
  | .jgt => "JGT".toList
  | .jeq => "JEQ".toList
  | .jge => "JGE".toList
  | .jlt => "JLT".toList
  | .jne => "JNE".toList
  | .jle => "JLE".toList
  | .jmp => "JMP".toList

/-- One decimal digit. -/
def digitChar (n : Nat) : Char := Char.ofNat (48 + n % 10)

/-- The decimal digits of a number of at most `fuel` digits. -/
def decimalDigits : Nat → Nat → Text
  | 0, _ => []
  | fuel + 1, n => if n < 10 then [digitChar n] else decimalDigits fuel (n / 10) ++ [digitChar n]

/-- The decimal text of a 16-bit number: at most five digits. -/
def decimal (n : Nat) : Text := decimalDigits 5 n

/-- `dest=` or nothing, the mnemonic, `;jump` or nothing (R83). -/
def computeText (dest : Dest) (comp : Text) (jump : Jump) : Text :=
  (if dest = ⟨false, false, false⟩ then [] else destText dest ++ ['=']) ++ comp ++
    (if jump = .never then [] else ';' :: jumpText jump)

/-- Format (R83, R84): `@` and the value for an address word; the compute text for a sanctioned compute word; none else. -/
def format (w : Word) : Option Text :=
  match classify w with
  | .address => some ('@' :: decimal w.toNat)
  | .compute => (compText (comp7Of w)).map (fun t => computeText (destOf w) t (jumpOf w))
  | .invalid => none

end Sys2Proof.Machine
end

