-- ==== Sys2Proof/Machine/Assembler.lean ====
section
/-! DEFINITION. The two-pass assembler of 30_encoding.md R70 to R82, software around the core (R2): the line forms, the symbol
table, the label pass, the resolution pass. -/

namespace Sys2Proof.Machine

/-- Why a line does not assemble; the whole run stops (R81). -/
inductive AsmError where
  /-- The dest is not a non-empty combination of A, M, D (R75). -/
  | badDest
  /-- The computation is none of the sanctioned forms (R76). -/
  | badComp
  /-- The jump is none of the seven mnemonics (R77). -/
  | badJump
  /-- A literal outside 0..32767 (R73, D19). -/
  | literalRange
  /-- A label definition or an address-reference without its form (R72, R73). -/
  | badLine
  /-- No address is left for a new user variable (R80 (v), log 21). -/
  | noFreeAddress
  deriving DecidableEq, Repr

/-- A symbolic assembly line (R70). A blank line is a comment without text. -/
inductive SymLine where
  | comment
  | label (name : Text)
  | address (target : Text)
  | compute (d : BitVec 3) (comp7 : BitVec 7) (j : BitVec 3)
  deriving DecidableEq, Repr

/-! ### Text -/

/-- R71: everything from `//` on is removed. -/
def stripComment : Text → Text
  | [] => []
  | c :: cs => if c = '/' ∧ cs.head? = some '/' then [] else c :: stripComment cs

/-- A blank. -/
def isBlank (c : Char) : Bool := c = ' ' || c = '\t' || c = '\r'

/-- Blanks around a line are ignored (D19). -/
def trim (t : Text) : Text := ((t.dropWhile isBlank).reverse.dropWhile isBlank).reverse

/-- The text before the first `c` and, where there is a `c`, the text after it. -/
def splitFirst (c : Char) : Text → Text × Option Text
  | [] => ([], none)
  | x :: xs => if x = c then ([], some xs) else let r := splitFirst c xs; (x :: r.1, r.2)

/-- The value of a text in a dictionary, the first binding winning. -/
def lookup {α : Type} (t : Text) : List (Text × α) → Option α
  | [] => none
  | (n, v) :: rest => if n = t then some v else lookup t rest

/-! ### Numbers (R73, R80 (i), (ii)) -/

/-- A decimal digit. -/
def decDigit (c : Char) : Option Nat := if '0' ≤ c ∧ c ≤ '9' then some (c.toNat - 48) else none

/-- A hexadecimal digit. -/
def hexDigit (c : Char) : Option Nat :=
  if '0' ≤ c ∧ c ≤ '9' then some (c.toNat - 48)
  else if 'a' ≤ c ∧ c ≤ 'f' then some (c.toNat - 87)
  else if 'A' ≤ c ∧ c ≤ 'F' then some (c.toNat - 55)
  else none

/-- The number of a digit string continued from `acc`. -/
def parseDigits (base : Nat) (digit : Char → Option Nat) : Text → Nat → Option Nat
  | [], acc => some acc
  | c :: cs, acc => (digit c).bind (fun d => parseDigits base digit cs (acc * base + d))

/-- A non-empty digit string. -/
def parseNumber (base : Nat) (digit : Char → Option Nat) (t : Text) : Option Nat :=
  if t = [] then none else parseDigits base digit t 0

/-- A decimal literal, or a hexadecimal one after `0x` or `0X` (D19); the chain of R80 tries decimal first. -/
def parseLiteral (t : Text) : Option Nat :=
  match parseNumber 10 decDigit t, t with
  | some n, _ => some n
  | none, '0' :: 'x' :: ds => parseNumber 16 hexDigit ds
  | none, '0' :: 'X' :: ds => parseNumber 16 hexDigit ds
  | none, _ => none

/-- Whether the text is a minus sign and decimal digits. DESIGN CHOICE (log 21): R73, D19 and N20 do not say how a sign is read; here
such a text is a decimal integer (R80 (i)) and is refused as a literal, `@-0` too, though its value 0 is in 0..32767. -/
def isNegativeLiteral : Text → Bool
  | '-' :: ds => (parseNumber 10 decDigit ds).isSome
  | _ => false

/-! ### The parts of a compute line (R74 to R77) -/

/-- The bit of a dest letter (R75). -/
def destLetter (c : Char) : Option (BitVec 3) :=
  if c = 'M' then some 0b001#3 else if c = 'D' then some 0b010#3 else if c = 'A' then some 0b100#3 else none

/-- Every letter sets its bit (R75). -/
def parseDestLetters : Text → BitVec 3 → Except AsmError (BitVec 3)
  | [], acc => .ok acc
  | c :: cs, acc =>
    match destLetter c with
    | none => .error .badDest
    | some b => parseDestLetters cs (acc ||| b)

/-- The dest part: absent, or a non-empty combination of letters. -/
def parseDest : Option Text → Except AsmError (BitVec 3)
  | none => .ok 0#3
  | some [] => .error .badDest
  | some t => parseDestLetters t 0#3

/-- The commutative forms accepted in the other operand order (R76). -/
def commuted : List (Text × Text) :=
  [("A+D".toList, "D+A".toList), ("M+D".toList, "D+M".toList), ("A&D".toList, "D&A".toList), ("M&D".toList, "D&M".toList),
   ("A|D".toList, "D|A".toList), ("M|D".toList, "D|M".toList), ("1+D".toList, "D+1".toList), ("1+A".toList, "A+1".toList),
   ("1+M".toList, "M+1".toList)]

/-- The canonical form of a computation: `~` is `!`, and the commuted forms are turned round (R76). -/
def canonicalComp (t : Text) : Text :=
  let u := t.map (fun c => if c = '~' then '!' else c)
  (lookup u commuted).getD u

/-- The comp part (R76). -/
def parseComp (t : Text) : Except AsmError (BitVec 7) :=
  match lookup (canonicalComp t) (sanctioned.map (fun r => (r.2.toList, r.1))) with
  | some c7 => .ok c7
  | none => .error .badComp

/-- The seven jump mnemonics (R77). -/
def jumpNames : List (Text × BitVec 3) :=
  [Jump.jgt, .jeq, .jge, .jlt, .jne, .jle, .jmp].map (fun j => (jumpText j, j.bits))

/-- The jump part: absent is "never" (R77). -/
def parseJump : Option Text → Except AsmError (BitVec 3)
  | none => .ok 0#3
  | some t =>
    match lookup t jumpNames with
    | some j => .ok j
    | none => .error .badJump

/-- A compute line (R74): `[dest=]comp[;jump]`. -/
def parseCompute (t : Text) : Except AsmError SymLine :=
  let eq := splitFirst '=' t
  let destPart := match eq.2 with | none => none | some _ => some eq.1
  let rest := match eq.2 with | none => t | some r => r
  let semi := splitFirst ';' rest
  match parseDest destPart, parseComp semi.1, parseJump semi.2 with
  | .ok d, .ok c7, .ok j => .ok (.compute d c7 j)
  | .error e, _, _ => .error e
  | .ok _, .error e, _ => .error e
  | .ok _, .ok _, .error e => .error e

/-- One line (R70 to R74). DESIGN CHOICE (log 21): R72 says only "an arbitrary identifier" and R73 "a user symbol" and neither says
which characters one may hold; here a name is any non-empty text, so `(A=B)`, `(a)b)` and `@1x;y` are names. -/
def parseLine (line : Text) : Except AsmError SymLine :=
  match trim (stripComment line) with
  | [] => .ok .comment
  | '(' :: rest =>
    if rest.getLast? = some ')' ∧ rest.dropLast ≠ [] then .ok (.label rest.dropLast) else .error .badLine
  | '@' :: target => if target = [] then .error .badLine else .ok (.address target)
  | t => parseCompute t

/-! ### Symbols (R78 to R80) -/

/-- The built-in symbols (R78): 24 names. -/
def builtins : List (Text × Nat) :=
  [("SP".toList, 0), ("LCL".toList, 1), ("ARG".toList, 2), ("THIS".toList, 3), ("THAT".toList, 4),
   ("R0".toList, 0), ("R1".toList, 1), ("R2".toList, 2), ("R3".toList, 3), ("R4".toList, 4), ("R5".toList, 5),
   ("R6".toList, 6), ("R7".toList, 7), ("R8".toList, 8), ("R9".toList, 9), ("R10".toList, 10), ("R11".toList, 11),
   ("R12".toList, 12), ("R13".toList, 13), ("R14".toList, 14), ("R15".toList, 15),
   ("SCREEN".toList, 16384), ("KBD".toList, 24576), ("MAX".toList, 32767)]

/-- Whether a line emits a word (R70, R82). -/
def SymLine.real : SymLine → Bool
  | .comment => false
  | .label _ => false
  | .address _ => true
  | .compute _ _ _ => true

/-- Pass 1 (R79): labels bound to the index of the next real instruction, the first definition winning. -/
def labelPass : List SymLine → Nat → List (Text × Nat) → List (Text × Nat)
  | [], _, bound => bound
  | .label n :: rest, at0, bound =>
    labelPass rest at0 (if (lookup n bound).isSome then bound else bound ++ [(n, at0)])
  | .comment :: rest, at0, bound => labelPass rest at0 bound
  | .address _ :: rest, at0, bound => labelPass rest (at0 + 1) bound
  | .compute _ _ _ :: rest, at0, bound => labelPass rest (at0 + 1) bound

/-- The user variables allocated so far, the oldest first. -/
abbrev Vars := List (Text × Nat)

/-- The address of the variable number `k`, counted from 0 (R78, R80 (v)): the counter starts at 16 and passes over the built-in
addresses SCREEN and KBD, so that it never reuses one. -/
def variableAddress (k : Nat) : Nat :=
  let past := if 16 + k < 16384 then 16 + k else 16 + k + 1
  if past < 24576 then past else past + 1

/-- Allocate a user variable (R80 (v)). The counter ends below MAX = 32767, the last built-in address and the last constant of an
address instruction; past it the run stops (R81; DESIGN CHOICE, log 21). -/
def allocate (vars : Vars) (t : Text) : Except AsmError (Nat × Vars) :=
  let n := variableAddress vars.length
  if n < 32767 then .ok (n, vars ++ [(t, n)]) else .error .noFreeAddress

/-- The fallback chain of R80: literal, built-in, label, variable, new variable. -/
def resolve (labels : List (Text × Nat)) (vars : Vars) (t : Text) : Except AsmError (Nat × Vars) :=
  if isNegativeLiteral t then .error .literalRange
  else match parseLiteral t with
    | some n => if n ≤ 32767 then .ok (n, vars) else .error .literalRange
    | none =>
      match lookup t builtins with
      | some n => .ok (n, vars)
      | none =>
        match lookup t labels with
        | some n => .ok (n, vars)
        | none =>
          match lookup t vars with
          | some n => .ok (n, vars)
          | none => allocate vars t

/-- Pass 2 (R80): one word for each real instruction, in order. -/
def resolvePass (labels : List (Text × Nat)) : List SymLine → Vars → Except AsmError (List Word)
  | [], _ => .ok []
  | .comment :: rest, vars => resolvePass labels rest vars
  | .label _ :: rest, vars => resolvePass labels rest vars
  | .compute d c7 j :: rest, vars =>
    match resolvePass labels rest vars with
    | .ok ws => .ok (constructCompute d c7 j :: ws)
    | .error e => .error e
  | .address t :: rest, vars =>
    match resolve labels vars t with
    | .error e => .error e
    | .ok (n, vars') =>
      match resolvePass labels rest vars' with
      | .ok ws => .ok (constructAddress (BitVec.ofNat 16 n) :: ws)
      | .error e => .error e

/-- Every line parsed, or the first error (R81). -/
def parseLines : List Text → Except AsmError (List SymLine)
  | [] => .ok []
  | l :: rest =>
    match parseLine l, parseLines rest with
    | .ok s, .ok ss => .ok (s :: ss)
    | .error e, _ => .error e
    | .ok _, .error e => .error e

/-- The assembler (R70 to R82): lines to the instruction array, or an error and no array. -/
def assemble (lines : List Text) : Except AsmError (List Word) :=
  match parseLines lines with
  | .error e => .error e
  | .ok syms => resolvePass (labelPass syms 0 []) syms []

/-- The lines of a source text. -/
def splitLines : Text → List Text
  | [] => [[]]
  | c :: cs =>
    match splitLines cs with
    | [] => [[c]]
    | l :: rest => if c = '\n' then [] :: l :: rest else (c :: l) :: rest

/-- The assembler on a source text. -/
def assembleText (source : Text) : Except AsmError (List Word) := assemble (splitLines source)

end Sys2Proof.Machine
end

