-- ==== Sys2Proof/Machine/HostOps.lean ====
section
/-! DEFINITION. The host operations (60_exceptions.md R236): all that anything outside the core can do to it, between ticks. -/

namespace Sys2Proof.Machine

/-- construct(prog) (R236, R250, R252): every piece of state at its reset value, the instruction array as handed over. An array
longer than 65536 words is refused (R4). -/
def State.construct (params : Params) (prog : List Word) : Except Refusal State :=
  if prog.length ≤ 65536 then .ok { State.reset with prog := prog, params := params }
  else .error (.programTooLong prog.length)

/-- The error a status reports. -/
def Status.error? : Status → Option FatalError
  | .running => none
  | .faulted e => some e

/-- tick() as the host sees it (R230): success (none) or the fatal error, and the state it leaves. In status Faulted the
state is unchanged and the error the same (R226). -/
def State.tick (s : State) : Option FatalError × State :=
  match step s with
  | .next s' => (s'.status.error?, s')
  | .fault (.faulted e) => (some e, s)
  | .refused _ => (s.status.error?, s)

/-- read A. -/
def State.hostReadA (s : State) : Word := s.A

/-- read D. -/
def State.hostReadD (s : State) : Word := s.D

/-- read pc. -/
def State.hostReadPc (s : State) : Nat := s.pc

/-- read RAM[a] for a < MEM_WORDS, no side effect; other addresses are outside the surface (R236, U15). -/
def State.hostReadCell (s : State) (a : Nat) : Except Refusal Word :=
  if a < s.params.memWords then .ok (s.ram.read a) else .error (.outsideHostSurface a)

/-- query display-changed (R239): the bit, which is cleared. -/
def State.queryDisplay (s : State) : Bool × State := (s.displayChanged, { s with displayChanged := false })

/-- set keyboard(v) (R238): RAM[24576] <- v and nothing else. -/
def State.setKeyboard (s : State) (v : Word) : State := { s with ram := s.ram.write kbd v }

/-- The host operations that change a core already constructed. -/
inductive HostOp where
  | tick
  | queryDisplay
  | setKeyboard (v : Word)
  deriving DecidableEq, Repr

/-- The state a host operation leaves. -/
def State.hostStep (s : State) : HostOp → State
  | .tick => s.tick.2
  | .queryDisplay => s.queryDisplay.2
  | .setKeyboard v => s.setKeyboard v

/-- The state a sequence of host operations leaves, the first operation first. -/
def State.hostRun (s : State) : List HostOp → State
  | [] => s
  | op :: rest => (s.hostStep op).hostRun rest

end Sys2Proof.Machine
end

