-- ==== Sys2Proof/Machine/Ports.lean ====
section
/-! DEFINITION. The informative port view of 10_state.md R23: the signals of the tick about to happen, read off the state. -/

namespace Sys2Proof.Machine

/-- The ports of R23. `tick`, `reset` and `kbd_in` are host operations (HostOps.lean). `idata` is none where no word exists,
`drdata` is some only when the mode bit is 1 and the cell exists. -/
structure Ports where
  iaddr : Nat
  idata : Option Word
  daddr : Word
  drdata : Option Word
  dwdata : Word
  dwe : Bool
  displayChanged : Bool
  fault : Option FatalError
  deriving DecidableEq, Repr

/-- Whether the tick's word reads or writes M at an address that does not exist (R222). -/
def State.badAccess (s : State) (w : Word) : Bool :=
  (modeOf w == .mMode || (destOf w).toM) && decide (s.params.memWords ≤ s.ea)

/-- The second operand the tick presents to the ALU. -/
def State.portY (s : State) (w : Word) : Word :=
  match modeOf w with
  | .aMode => s.A
  | .mMode => s.ram.read s.ea

/-- The ports of a state (R23). `dwe` is high for a compute word with dest bit 3 set, no fatal error and daddr != 24576. -/
def State.ports (s : State) : Ports :=
  match s.status, s.fetch with
  | .running, some w =>
    let isCompute := classify w == .compute
    { iaddr := s.pc, idata := some w, daddr := s.A,
      drdata := if isCompute && modeOf w == .mMode && !s.badAccess w then some (s.ram.read s.ea) else none,
      dwdata := alu (controlOf w) s.D (s.portY w),
      dwe := isCompute && (destOf w).toM && !s.badAccess w && s.ea != kbd,
      displayChanged := s.displayChanged, fault := none }
  | status, idata =>
    { iaddr := s.pc, idata := idata, daddr := s.A, drdata := none, dwdata := 0#16, dwe := false,
      displayChanged := s.displayChanged, fault := status.error? }

end Sys2Proof.Machine
end

