-- ==== Sys2Proof/Safety.lean ====
section
/-! DEFINITION. What counts as a legal state and as a safe run, in the terms the statements use. -/

namespace Sys2Proof.Machine

/-- The invariant of the machine: memory in canonical form, no listed cell outside MEM_WORDS (R15), the pc a number 0..65536
(R13), the instruction array at most 65536 words (R4), admissible parameters (R36). -/
structure State.Inv (s : State) : Prop where
  ramWf : s.ram.wf
  ramInRange : ∀ c ∈ s.ram, c.1 < s.params.memWords
  pcBound : s.pc ≤ 65536
  progBound : s.prog.length ≤ 65536
  paramsWf : s.params.wf

/-- A core the host can have (R236): constructed with admissible parameters, then any host operations in any order. DESIGN CHOICE
(log 25): no fairness of the host is assumed (R258, U13), so a host that never sets the keyboard, or stops ticking, is admitted. -/
inductive Reachable : State → Prop where
  | construct (params : Params) (prog : List Word) (s : State) :
      params.wf → State.construct params prog = .ok s → Reachable s
  | op (s : State) (op : HostOp) : Reachable s → Reachable (s.hostStep op)

/-- A run is safe while its status is Running: no fatal error has happened (R220, R226). -/
abbrev State.Safe (s : State) : Prop := s.status = .running

/-- *Parked at e* (R240; the spec's own definition, D21): the two-instruction loop `@e`, then a compute word with j = 111,
d = 000, a = 0. -/
structure State.ParkedAt (s : State) (e : Nat) : Prop where
  running : s.status = .running
  atE : s.pc = e
  fits : e + 1 < s.prog.length
  small : e ≤ 32767
  load : s.prog[e]? = some (BitVec.ofNat 16 e)
  jumpWord : ∃ w, s.prog[e + 1]? = some w ∧ classify w = .compute ∧ jumpOf w = .jmp ∧
    destBitsOf w = 0#3 ∧ modeOf w = .aMode

/-- The two-instruction loop of a parked core (R240): its two words are in place, and the core is at the first, or at the second
with A = e. A parked state is one of these; at e + 1 the core is not parked by the words of R240. -/
structure State.InParkedLoop (s : State) (e : Nat) : Prop where
  running : s.status = .running
  fits : e + 1 < s.prog.length
  small : e ≤ 32767
  load : s.prog[e]? = some (BitVec.ofNat 16 e)
  jumpWord : ∃ w, s.prog[e + 1]? = some w ∧ classify w = .compute ∧ jumpOf w = .jmp ∧
    destBitsOf w = 0#3 ∧ modeOf w = .aMode
  atLoop : s.pc = e ∨ (s.pc = e + 1 ∧ s.A = BitVec.ofNat 16 e)

end Sys2Proof.Machine
end

