-- ==== Sys2Proof/Certificates/Slice0/Obligations.lean ====
section
/-! DEFINITION. The statements for the provers, with the spec-side helpers they are written in. A docstring that names D<n> or
log <n> says that the point is a choice of the spec or of the model, not a rule of the source. -/

open Sys2Proof Sys2Proof.Machine

namespace Sys2Proof.Claim

/-! ### What the rules say, in their own terms -/

/-- The jump condition by the truth table of R190, on the signed value. -/
def jumpHolds : Jump → Word → Bool
  | .never, _ => false
  | .jgt, v => decide (0 < v.toInt)
  | .jeq, v => decide (v.toInt = 0)
  | .jge, v => decide (0 ≤ v.toInt)
  | .jlt, v => decide (v.toInt < 0)
  | .jne, v => decide (v.toInt ≠ 0)
  | .jle, v => decide (v.toInt ≤ 0)
  | .jmp, _ => true

/-- y of R102: old A, or RAM[old A]. -/
def operand (mode : Mode) (s : State) : Word :=
  match mode with
  | .aMode => s.A
  | .mMode => s.ram.read s.A.toNat

/-- comp of a compute word (R100 step 4b), from the old values. -/
def compOf (w : Word) (s : State) : Word := alu (controlOf w) s.D (operand (modeOf w) s)

/-- The word touches data memory: mode bit 1 or the M destination (R112). -/
def touchesM (w : Word) : Prop := modeOf w = .mMode ∨ (destOf w).toM = true

/-- The cell the word touches exists, if it touches one. -/
def accessOk (w : Word) (s : State) : Prop := touchesM w → s.A.toNat < s.params.memWords

/-- Whether a write of `v` at old A reports a changed display (R41 with the parameter of R4). -/
def reports (s : State) (v : Word) : Bool :=
  decide (16384 ≤ s.A.toNat ∧ s.A.toNat ≤ 24575 ∧ ¬ (s.params.skipRedundantScreenWrites = true ∧ s.ram.read s.A.toNat = v))

/-- The state after a compute instruction that raises no error: every field, from the old values (R100, R111). -/
def afterCompute (s : State) (comp : Word) (dest : Dest) (jump : Jump) : State :=
  { A := if dest.toA then comp else s.A
    D := if dest.toD then comp else s.D
    pc := if jumpHolds jump comp then s.A.toNat else s.pc + 1
    ram := if dest.toM = true ∧ s.A.toNat ≠ 24576 then s.ram.write s.A.toNat comp else s.ram
    displayChanged := s.displayChanged || (dest.toM && reports s comp)
    status := s.status
    prog := s.prog
    params := s.params
    draws := s.draws }

/-- One rule of 42_alu_table.md for both modes: the encoding (match under mask 0xEFC0), the assembly text of the a = 0 and the
a = 1 code, and the whole next state with the closed form `f` of the old D and y, for every dest, jump and state in which
the cell touched exists. -/
def PatternRule (matchWord : Word) (iA iM : Dest → Jump → Instr) (textA textM : Option String) (f : Word → Word → Word) : Prop :=
  (∀ w : Word, w &&& 0xEFC0#16 = matchWord →
    decode w = if w.getLsbD 12 then iM (destOf w) (jumpOf w) else iA (destOf w) (jumpOf w)) ∧
  compText (comp7Of matchWord) = textA.map String.toList ∧
  compText (comp7Of (matchWord ||| 0x1000#16)) = textM.map String.toList ∧
  (∀ (dest : Dest) (jump : Jump) (s : State), (dest.toM = true → s.A.toNat < s.params.memWords) →
    exec (iA dest jump) s = .next (afterCompute s (f s.D s.A) dest jump)) ∧
  (∀ (dest : Dest) (jump : Jump) (s : State), s.A.toNat < s.params.memWords →
    exec (iM dest jump) s = .next (afterCompute s (f s.D (s.ram.read s.A.toNat)) dest jump))

/-! ### The one-piece listing of R230 -/

/-- The six steps of R104 on numbers. -/
def aluListing (c : BitVec 6) (x y : Word) : Word :=
  let x1 := if c.getLsbD 5 then 0#16 else x
  let x2 := if c.getLsbD 4 then BitVec.ofNat 16 (65535 - x1.toNat) else x1
  let y1 := if c.getLsbD 3 then 0#16 else y
  let y2 := if c.getLsbD 2 then BitVec.ofNat 16 (65535 - y1.toNat) else y1
  let o := if c.getLsbD 1 then BitVec.ofNat 16 ((x2.toNat + y2.toNat) % 65536) else x2 &&& y2
  if c.getLsbD 0 then BitVec.ofNat 16 (65535 - o.toNat) else o

/-- The condition of R190 on the bits of the value. -/
def condListing (j : BitVec 3) (v : Word) : Bool :=
  (j.getLsbD 2 && v.getLsbD 15) || (j.getLsbD 1 && v == 0#16) || (j.getLsbD 0 && !v.getLsbD 15 && v != 0#16)

/-- tick() as R230 lists it, on the raw word: the error returned, if any, and the state left (its pc is not to be read in
status Faulted). -/
def tickListing (s : State) : Option FatalError × State :=
  match s.status with
  | .faulted e => (some e, s)
  | .running =>
    if s.prog.length ≤ s.pc then
      (some (.pcOutOfRange s.pc), { s with status := .faulted (.pcOutOfRange s.pc) })
    else
      let idx := s.pc
      let w := s.prog.getD idx 0#16
      let s1 := { s with pc := s.pc + 1 }
      if w.getLsbD 15 = false then
        (none, { s1 with A := (w.extractLsb' 0 15).setWidth 16 })
      else if w.extractLsb' 13 3 = 0b111#3 then
        let a := w.getLsbD 12
        let c := w.extractLsb' 6 6
        let d := w.extractLsb' 3 3
        let j := w.extractLsb' 0 3
        let ea := s.A.toNat
        if (a = true ∨ d.getLsbD 0 = true) ∧ s.params.memWords ≤ ea then
          (some (.addressOutOfRange idx w ea), { s1 with status := .faulted (.addressOutOfRange idx w ea) })
        else
          let y := if a then s.ram.read ea else s.A
          let comp := aluListing c s.D y
          let s2 := if condListing j comp then { s1 with pc := ea } else s1
          let redundant := s.params.skipRedundantScreenWrites && s.ram.read ea == comp
          let s3 := if d.getLsbD 0 = true ∧ ea ≠ 24576 then
              { s2 with
                ram := s2.ram.write ea comp
                displayChanged := s2.displayChanged || (decide (16384 ≤ ea ∧ ea ≤ 24575) && !redundant) }
            else s2
          let s4 := if d.getLsbD 2 then { s3 with A := comp } else s3
          let s5 := if d.getLsbD 1 then { s4 with D := comp } else s4
          (none, s5)
      else (some (.decodeError idx w), { s1 with status := .faulted (.decodeError idx w) })

/-- Two states agree on everything but the pc and the model's draw counter. -/
def agreeButPc (s t : State) : Prop :=
  s.A = t.A ∧ s.D = t.D ∧ s.ram = t.ram ∧ s.displayChanged = t.displayChanged ∧ s.status = t.status ∧
    s.prog = t.prog ∧ s.params = t.params

/-- What a fatal error leaves (R226): the status with the diagnostic, everything else the program or the host can see as
before; the pc only within its bound (U9; log 2). -/
def faultedAs (e : FatalError) (s t : State) : Prop :=
  t.status = .faulted e ∧ t.A = s.A ∧ t.D = s.D ∧ t.ram = s.ram ∧ t.displayChanged = s.displayChanged ∧
    t.prog = s.prog ∧ t.params = s.params ∧ t.pc ≤ 65536

end Sys2Proof.Claim

/-! ### Encoding -/

/-- R51 to R53, R65, all instructions: no bit of an encoding is dropped, every operand at every value. The codes themselves are
the spec's choices D1 to D4 (log 10, 11); that the invalid words are instructions is the model's (log 7). -/
def Obligations.DecodeOfEncodeIsTheInstruction : Prop :=
  ∀ i : Instr, WellFormed i → decode (encode i) = i

/-- R68, R61, R51: every 16-bit word decodes to exactly one instruction and is encoded back. That the words of class invalid, which
R51 and R65 put in neither class, are well-formed instructions of their own is the model's choice (log 7). -/
def Obligations.EncodeOfDecodeIsTheWord : Prop :=
  ∀ w : Word, WellFormed (decode w) ∧ encode (decode w) = w

/-- R61: equality of instructions is equality of words, and two codes of one function (c = 001010 and 001100, both D) differ. -/
def Obligations.InstructionsAreEqualJustWhenTheirWordsAre : Prop :=
  (∀ w v : Word, decode w = decode v ↔ w = v) ∧
  (∀ dest jump, Instr.uA001010 dest jump ≠ Instr.compD dest jump ∧
    encode (.uA001010 dest jump) ≠ encode (.compD dest jump) ∧
    ∀ s : State, s.A.toNat < s.params.memWords → exec (.uA001010 dest jump) s = exec (.compD dest jump) s)

/-- R51: the three classes by masks and as ranges of numbers (hence 32768, 8192 and 24576 words). -/
def Obligations.ClassesByMaskAndRange : Prop :=
  ∀ w : Word,
    (classify w = .address ↔ w &&& 0x8000#16 = 0x0000#16) ∧ (classify w = .address ↔ w.toNat < 0x8000) ∧
    (classify w = .compute ↔ w &&& 0xE000#16 = 0xE000#16) ∧ (classify w = .compute ↔ 0xE000 ≤ w.toNat) ∧
    (classify w = .invalid ↔ 0x8000 ≤ w.toNat ∧ w.toNat ≤ 0xDFFF)

/-- R58, R59: the fields put into a compute word read back, its class is compute; every constant 0..32767 is an address
instruction and reads back. -/
def Obligations.ConstructedFieldsReadBack : Prop :=
  (∀ (d : BitVec 3) (c7 : BitVec 7) (j : BitVec 3),
    constructCompute d c7 j = 0xE000#16 ||| (c7.setWidth 16 <<< 6) ||| (d.setWidth 16 <<< 3) ||| j.setWidth 16 ∧
    destBitsOf (constructCompute d c7 j) = d ∧ comp7Of (constructCompute d c7 j) = c7 ∧
    jumpBitsOf (constructCompute d c7 j) = j ∧ classify (constructCompute d c7 j) = .compute) ∧
  (∀ v : Word, v.toNat ≤ 32767 → classify (constructAddress v) = .address ∧
    ((constructAddress v).extractLsb' 0 15).toNat = v.toNat)

/-- R57: the sign bit is cleared and the result is an address instruction, whatever the argument; for a non-negative argument
the result is the argument, for a negative one it is a different word. -/
def Obligations.ConstructAddressClearsTheSignBit : Prop :=
  ∀ v : Word, constructAddress v = v &&& 0x7FFF#16 ∧ classify (constructAddress v) = .address ∧
    (0 ≤ v.toInt → constructAddress v = v) ∧
    (v.toInt < 0 → constructAddress v ≠ v ∧ (constructAddress v).toNat = v.toNat - 32768)

/-- Words written out from the encodings of R52, R53, R63 and R65 (D1 to D4; log 10, 11; the constructors of the invalid words: log 7)
decode to what they stand for. -/
def Obligations.WrittenOutWordsDecode : Prop :=
  decode 0b0100000000000000#16 = .addressValue 16384#16 ∧
  decode 0b1110110000010000#16 = .compA ⟨false, true, false⟩ .never ∧          -- D=A
  decode 0b1111110111011000#16 = .mPlus1 ⟨true, true, false⟩ .never ∧          -- MD=M+1
  decode 0b1110101010100111#16 = .zero ⟨false, false, true⟩ .jmp ∧             -- A=0;JMP
  decode 0b1111000010111001#16 = .dPlusM ⟨true, true, true⟩ .jgt ∧             -- AMD=D+M;JGT
  decode 0b1110111110010000#16 = .uA111110 ⟨false, true, false⟩ .never ∧       -- D=-2, unsanctioned
  decode 0b1000000000000000#16 = .illegal100 0#13 ∧
  decode 0b1100000100100011#16 = .illegal110 0x0123#13

/-! ### The address instruction -/

/-- R90: every word with bit 15 clear loads its 15 bits into A; the pc advances; no other effect, no error. Said of the
decoder, of the meaning, and of the whole tick with its fetch. -/
def Obligations.AddressInstructionLoadsA : Prop :=
  (∀ w : Word, w &&& 0x8000#16 = 0#16 → decode w = .addressValue w) ∧
  (∀ (w : Word) (s : State), w &&& 0x8000#16 = 0#16 →
    exec (.addressValue w) s = .next { s with A := (w.extractLsb' 0 15).setWidth 16, pc := s.pc + 1 }) ∧
  (∀ (w : Word) (s : State), w &&& 0x8000#16 = 0#16 → s.status = .running → s.fetch = some w →
    step s = .next { s with A := (w.extractLsb' 0 15).setWidth 16, pc := s.pc + 1 })

/-! ### The 64 control patterns, both modes: result and completion of the 128 compute instructions -/

/-- Rules R120 to R127 of 42_alu_table.md: the eight patterns c = 000000 to 000111 (D and y, plain and the second operand complemented), both modes: encoding, assembly text, result
and the whole next state. The bit meanings are the spec's own choice (D1, D2, D3, D4, D9; log 10, 11, 15). -/
def Obligations.AluPatterns0To7 : Prop :=
  Claim.PatternRule 0xE000#16 .dAndA .dAndM (some "D&A") (some "D&M") (fun D y => D &&& y) ∧
  Claim.PatternRule 0xE040#16 .uA000001 .uM000001 (none) (none) (fun D y => ~~~(D &&& y)) ∧
  Claim.PatternRule 0xE080#16 .dPlusA .dPlusM (some "D+A") (some "D+M") (fun D y => D + y) ∧
  Claim.PatternRule 0xE0C0#16 .uA000011 .uM000011 (none) (none) (fun D y => -(D + y) - 1) ∧
  Claim.PatternRule 0xE100#16 .uA000100 .uM000100 (none) (none) (fun D y => D &&& ~~~y) ∧
  Claim.PatternRule 0xE140#16 .uA000101 .uM000101 (none) (none) (fun D y => ~~~D ||| y) ∧
  Claim.PatternRule 0xE180#16 .uA000110 .uM000110 (none) (none) (fun D y => D - y - 1) ∧
  Claim.PatternRule 0xE1C0#16 .aMinusD .mMinusD (some "A-D") (some "M-D") (fun D y => y - D)

/-- Rules R128 to R135 of 42_alu_table.md: the eight patterns c = 001000 to 001111 (y zeroed), both modes: encoding, assembly text, result
and the whole next state. The bit meanings are the spec's own choice (D1, D2, D3, D4, D9; log 10, 11, 15). -/
def Obligations.AluPatterns8To15 : Prop :=
  Claim.PatternRule 0xE200#16 .uA001000 .uM001000 (none) (none) (fun _ _ => 0#16) ∧
  Claim.PatternRule 0xE240#16 .uA001001 .uM001001 (none) (none) (fun _ _ => 0xFFFF#16) ∧
  Claim.PatternRule 0xE280#16 .uA001010 .uM001010 (none) (none) (fun D _ => D) ∧
  Claim.PatternRule 0xE2C0#16 .uA001011 .uM001011 (none) (none) (fun D _ => ~~~D) ∧
  Claim.PatternRule 0xE300#16 .compD .uM001100 (some "D") (none) (fun D _ => D) ∧
  Claim.PatternRule 0xE340#16 .notD .uM001101 (some "!D") (none) (fun D _ => ~~~D) ∧
  Claim.PatternRule 0xE380#16 .dMinus1 .uM001110 (some "D-1") (none) (fun D _ => D - 1) ∧
  Claim.PatternRule 0xE3C0#16 .negD .uM001111 (some "-D") (none) (fun D _ => -D)

/-- Rules R136 to R143 of 42_alu_table.md: the eight patterns c = 010000 to 010111 (D complemented), both modes: encoding, assembly text, result
and the whole next state. The bit meanings are the spec's own choice (D1, D2, D3, D4, D9; log 10, 11, 15). -/
def Obligations.AluPatterns16To23 : Prop :=
  Claim.PatternRule 0xE400#16 .uA010000 .uM010000 (none) (none) (fun D y => ~~~D &&& y) ∧
  Claim.PatternRule 0xE440#16 .uA010001 .uM010001 (none) (none) (fun D y => D ||| ~~~y) ∧
  Claim.PatternRule 0xE480#16 .uA010010 .uM010010 (none) (none) (fun D y => y - D - 1) ∧
  Claim.PatternRule 0xE4C0#16 .dMinusA .dMinusM (some "D-A") (some "D-M") (fun D y => D - y) ∧
  Claim.PatternRule 0xE500#16 .uA010100 .uM010100 (none) (none) (fun D y => ~~~(D ||| y)) ∧
  Claim.PatternRule 0xE540#16 .dOrA .dOrM (some "D|A") (some "D|M") (fun D y => D ||| y) ∧
  Claim.PatternRule 0xE580#16 .uA010110 .uM010110 (none) (none) (fun D y => -(D + y) - 2) ∧
  Claim.PatternRule 0xE5C0#16 .uA010111 .uM010111 (none) (none) (fun D y => D + y + 1)

/-- Rules R144 to R151 of 42_alu_table.md: the eight patterns c = 011000 to 011111 (D complemented, y zeroed), both modes: encoding, assembly text, result
and the whole next state. The bit meanings are the spec's own choice (D1, D2, D3, D4, D9; log 10, 11, 15). -/
def Obligations.AluPatterns24To31 : Prop :=
  Claim.PatternRule 0xE600#16 .uA011000 .uM011000 (none) (none) (fun _ _ => 0#16) ∧
  Claim.PatternRule 0xE640#16 .uA011001 .uM011001 (none) (none) (fun _ _ => 0xFFFF#16) ∧
  Claim.PatternRule 0xE680#16 .uA011010 .uM011010 (none) (none) (fun D _ => ~~~D) ∧
  Claim.PatternRule 0xE6C0#16 .uA011011 .uM011011 (none) (none) (fun D _ => D) ∧
  Claim.PatternRule 0xE700#16 .uA011100 .uM011100 (none) (none) (fun D _ => ~~~D) ∧
  Claim.PatternRule 0xE740#16 .uA011101 .uM011101 (none) (none) (fun D _ => D) ∧
  Claim.PatternRule 0xE780#16 .uA011110 .uM011110 (none) (none) (fun D _ => -D - 2) ∧
  Claim.PatternRule 0xE7C0#16 .dPlus1 .uM011111 (some "D+1") (none) (fun D _ => D + 1)

/-- Rules R152 to R159 of 42_alu_table.md: the eight patterns c = 100000 to 100111 (D zeroed), both modes: encoding, assembly text, result
and the whole next state. The bit meanings are the spec's own choice (D1, D2, D3, D4, D9; log 10, 11, 15). -/
def Obligations.AluPatterns32To39 : Prop :=
  Claim.PatternRule 0xE800#16 .uA100000 .uM100000 (none) (none) (fun _ _ => 0#16) ∧
  Claim.PatternRule 0xE840#16 .uA100001 .uM100001 (none) (none) (fun _ _ => 0xFFFF#16) ∧
  Claim.PatternRule 0xE880#16 .uA100010 .uM100010 (none) (none) (fun _ y => y) ∧
  Claim.PatternRule 0xE8C0#16 .uA100011 .uM100011 (none) (none) (fun _ y => ~~~y) ∧
  Claim.PatternRule 0xE900#16 .uA100100 .uM100100 (none) (none) (fun _ _ => 0#16) ∧
  Claim.PatternRule 0xE940#16 .uA100101 .uM100101 (none) (none) (fun _ _ => 0xFFFF#16) ∧
  Claim.PatternRule 0xE980#16 .uA100110 .uM100110 (none) (none) (fun _ y => ~~~y) ∧
  Claim.PatternRule 0xE9C0#16 .uA100111 .uM100111 (none) (none) (fun _ y => y)

/-- Rules R160 to R167 of 42_alu_table.md: the eight patterns c = 101000 to 101111 (both operands zeroed), both modes: encoding, assembly text, result
and the whole next state. The bit meanings are the spec's own choice (D1, D2, D3, D4, D9; log 10, 11, 15). -/
def Obligations.AluPatterns40To47 : Prop :=
  Claim.PatternRule 0xEA00#16 .uA101000 .uM101000 (none) (none) (fun _ _ => 0#16) ∧
  Claim.PatternRule 0xEA40#16 .uA101001 .uM101001 (none) (none) (fun _ _ => 0xFFFF#16) ∧
  Claim.PatternRule 0xEA80#16 .zero .uM101010 (some "0") (none) (fun _ _ => 0#16) ∧
  Claim.PatternRule 0xEAC0#16 .uA101011 .uM101011 (none) (none) (fun _ _ => 0xFFFF#16) ∧
  Claim.PatternRule 0xEB00#16 .uA101100 .uM101100 (none) (none) (fun _ _ => 0#16) ∧
  Claim.PatternRule 0xEB40#16 .uA101101 .uM101101 (none) (none) (fun _ _ => 0xFFFF#16) ∧
  Claim.PatternRule 0xEB80#16 .uA101110 .uM101110 (none) (none) (fun _ _ => 0xFFFF#16) ∧
  Claim.PatternRule 0xEBC0#16 .uA101111 .uM101111 (none) (none) (fun _ _ => 0#16)

/-- Rules R168 to R175 of 42_alu_table.md: the eight patterns c = 110000 to 110111 (D set to all ones), both modes: encoding, assembly text, result
and the whole next state. The bit meanings are the spec's own choice (D1, D2, D3, D4, D9; log 10, 11, 15). -/
def Obligations.AluPatterns48To55 : Prop :=
  Claim.PatternRule 0xEC00#16 .compA .compM (some "A") (some "M") (fun _ y => y) ∧
  Claim.PatternRule 0xEC40#16 .notA .notM (some "!A") (some "!M") (fun _ y => ~~~y) ∧
  Claim.PatternRule 0xEC80#16 .aMinus1 .mMinus1 (some "A-1") (some "M-1") (fun _ y => y - 1) ∧
  Claim.PatternRule 0xECC0#16 .negA .negM (some "-A") (some "-M") (fun _ y => -y) ∧
  Claim.PatternRule 0xED00#16 .uA110100 .uM110100 (none) (none) (fun _ y => ~~~y) ∧
  Claim.PatternRule 0xED40#16 .uA110101 .uM110101 (none) (none) (fun _ y => y) ∧
  Claim.PatternRule 0xED80#16 .uA110110 .uM110110 (none) (none) (fun _ y => -y - 2) ∧
  Claim.PatternRule 0xEDC0#16 .aPlus1 .mPlus1 (some "A+1") (some "M+1") (fun _ y => y + 1)

/-- Rules R176 to R183 of 42_alu_table.md: the eight patterns c = 111000 to 111111 (D set to all ones, y zeroed), both modes: encoding, assembly text, result
and the whole next state. The bit meanings are the spec's own choice (D1, D2, D3, D4, D9; log 10, 11, 15). -/
def Obligations.AluPatterns56To63 : Prop :=
  Claim.PatternRule 0xEE00#16 .uA111000 .uM111000 (none) (none) (fun _ _ => 0#16) ∧
  Claim.PatternRule 0xEE40#16 .uA111001 .uM111001 (none) (none) (fun _ _ => 0xFFFF#16) ∧
  Claim.PatternRule 0xEE80#16 .minusOne .uM111010 (some "-1") (none) (fun _ _ => 0xFFFF#16) ∧
  Claim.PatternRule 0xEEC0#16 .uA111011 .uM111011 (none) (none) (fun _ _ => 0#16) ∧
  Claim.PatternRule 0xEF00#16 .uA111100 .uM111100 (none) (none) (fun _ _ => 0xFFFF#16) ∧
  Claim.PatternRule 0xEF40#16 .uA111101 .uM111101 (none) (none) (fun _ _ => 0#16) ∧
  Claim.PatternRule 0xEF80#16 .uA111110 .uM111110 (none) (none) (fun _ _ => 0xFFFE#16) ∧
  Claim.PatternRule 0xEFC0#16 .one .uM111111 (some "1") (none) (fun _ _ => 1#16)

/-! ### The compute instruction as a whole -/

/-- The frame of a compute word that raises no error: registers not selected keep their values; every cell but the one at the
address the meaning stores to, `s.ea`, reads as before, and every cell does for a form without the M destination; the
status, the instruction array, the parameters and the draw counter are unchanged; display-changed is never cleared, and unchanged
without a store. -/
def Obligations.ComputeFrame : Prop :=
  ∀ (w : Word) (s t : State), classify w = .compute → exec (decode w) s = .next t → t.status = s.status →
    Claim.accessOk w s →
    ((destOf w).toA = false → t.A = s.A) ∧ ((destOf w).toD = false → t.D = s.D) ∧
    (∀ a b : Nat, a = s.ea → b ≠ a → t.ram.read b = s.ram.read b) ∧
    ((destOf w).toM = false → (∀ b : Nat, t.ram.read b = s.ram.read b) ∧ t.displayChanged = s.displayChanged) ∧
    (s.displayChanged = true → t.displayChanged = true) ∧
    t.prog = s.prog ∧ t.params = s.params ∧ t.draws = s.draws

/-- R106: the jump is decided by comp and goes to the old A, also where A is a destination; else the pc is one further; `A=0;JMP`
from A = T goes to T and leaves A = 0. -/
def Obligations.JumpGoesThroughTheOldA : Prop :=
  (∀ (w : Word) (s : State), classify w = .compute → Claim.accessOk w s →
    ∃ t, exec (decode w) s = .next t ∧
      t.pc = if jumpCond (jumpOf w) (Claim.compOf w s) then s.A.toNat else s.pc + 1) ∧
  (∀ s : State, exec (.zero ⟨false, false, true⟩ .jmp) s = .next { s with A := 0#16, pc := s.A.toNat })

/-- R107, R210, R211: one value, computed from the old state, goes to every selected destination; the M write is at the old A,
also where A is written; a destination not selected keeps its value. -/
def Obligations.OneValueForEveryDestination : Prop :=
  ∀ (w : Word) (s : State), classify w = .compute → Claim.accessOk w s →
    ∃ t, exec (decode w) s = .next t ∧
      t.A = (if (destOf w).toA then Claim.compOf w s else s.A) ∧
      t.D = (if (destOf w).toD then Claim.compOf w s else s.D) ∧
      t.ram.read s.A.toNat =
        (if (destOf w).toM = true ∧ s.A.toNat ≠ 24576 then Claim.compOf w s else s.ram.read s.A.toNat) ∧
      (∀ b, b ≠ s.A.toNat → t.ram.read b = s.ram.read b)

/-- The jump codes of R190 to R198, read off bits 2..0 of the word: the spec's own assignment (D4; log 11), signed (D5; log 12),
target unsigned (D6; log 13). -/
def Obligations.JumpCodesDecideTheNextPc : Prop :=
  ∀ (w : Word) (s : State), classify w = .compute → Claim.accessOk w s →
    ∃ t, exec (decode w) s = .next t ∧
      let j := (w.extractLsb' 0 3).toNat
      let v := (Claim.compOf w s).toInt
      (j = 0 → t.pc = s.pc + 1) ∧
      (j = 1 → t.pc = if 0 < v then s.A.toNat else s.pc + 1) ∧
      (j = 2 → t.pc = if v = 0 then s.A.toNat else s.pc + 1) ∧
      (j = 3 → t.pc = if 0 ≤ v then s.A.toNat else s.pc + 1) ∧
      (j = 4 → t.pc = if v < 0 then s.A.toNat else s.pc + 1) ∧
      (j = 5 → t.pc = if v ≠ 0 then s.A.toNat else s.pc + 1) ∧
      (j = 6 → t.pc = if v ≤ 0 then s.A.toNat else s.pc + 1) ∧
      (j = 7 → t.pc = s.A.toNat)

/-- The destination bits of R201 to R209, read off the word: bit 3 M, bit 4 D, bit 5 A is the spec's own assignment (D3; log 11). -/
def Obligations.DestBitsSelectTheWrites : Prop :=
  ∀ (w : Word) (s : State), classify w = .compute → Claim.accessOk w s →
    ∃ t, exec (decode w) s = .next t ∧
      (w.getLsbD 3 = true → s.A.toNat ≠ 24576 → t.ram = s.ram.write s.A.toNat (Claim.compOf w s)) ∧
      (w.getLsbD 3 = true → s.A.toNat = 24576 → t.ram = s.ram) ∧
      (w.getLsbD 3 = false → t.ram = s.ram) ∧
      (w.getLsbD 4 = true → t.D = Claim.compOf w s) ∧ (w.getLsbD 4 = false → t.D = s.D) ∧
      (w.getLsbD 5 = true → t.A = Claim.compOf w s) ∧ (w.getLsbD 5 = false → t.A = s.A)

/-- The corner cases of R111, with the spec's codes (D1 to D4; log 10, 11): `A=D;JMP`, `AM=M+1`, `AD=D+A`, `AMD=D+M;JGT`, `D=D-1;JGT`. -/
def Obligations.ReadsComeBeforeWrites : Prop :=
  (∀ s : State, exec (decode 0xE327#16) s = .next { s with A := s.D, pc := s.A.toNat }) ∧
  (∀ s : State, s.A.toNat < s.params.memWords → s.A.toNat ≠ 24576 →
    ∃ t, exec (decode 0xFDE8#16) s = .next t ∧ t.A = s.ram.read s.A.toNat + 1 ∧
      t.ram = s.ram.write s.A.toNat (s.ram.read s.A.toNat + 1)) ∧
  (∀ s : State, exec (decode 0xE0B0#16) s = .next { s with A := s.D + s.A, D := s.D + s.A, pc := s.pc + 1 }) ∧
  (∀ s : State, s.A.toNat < s.params.memWords → 0 < (s.D + s.ram.read s.A.toNat).toInt →
    ∃ t, exec (decode 0xF0B9#16) s = .next t ∧ t.pc = s.A.toNat ∧ t.A = s.D + s.ram.read s.A.toNat ∧
      t.D = s.D + s.ram.read s.A.toNat) ∧
  (∀ s : State, s.D = 1#16 → exec (decode 0xE391#16) s = .next { s with D := 0#16, pc := s.pc + 1 })

/-- A word with a = 0 and no M destination neither reads nor changes memory and never raises an error (R102, R222). -/
def Obligations.WordsOffMemoryIgnoreMemory : Prop :=
  ∀ (w : Word) (s : State) (m : Memory), classify w = .compute → ¬ Claim.touchesM w →
    ∃ t, exec (decode w) s = .next t ∧ t.ram = s.ram ∧ t.status = s.status ∧
      exec (decode w) { s with ram := m } = .next { t with ram := m }

/-- The default instruction 0xEA80 (R60; the code is the spec's choice D2, log 10): only the pc changes. -/
def Obligations.DefaultInstructionOnlyAdvances : Prop :=
  decode 0xEA80#16 = .zero ⟨false, false, false⟩ .never ∧
    ∀ s : State, exec (decode 0xEA80#16) s = .next { s with pc := s.pc + 1 }

/-! ### Memory -/

/-- R36: MemWrite. The range check first; 24576 dropped; else the cell gets all 16 bits, no other cell changes, and a screen
address sets the display-changed bit. The clause for SKIP_REDUNDANT_SCREEN_WRITES = true is R41's, with the spec's own choice
D14 (log 19). -/
def Obligations.MemWriteAsListed : Prop :=
  ∀ (s : State) (idx : Nat) (w : Word) (a : Nat) (v : Word),
    (s.params.memWords ≤ a → s.memWrite idx w a v = .error (.addressOutOfRange idx w a)) ∧
    (a < s.params.memWords → a = 24576 → s.memWrite idx w a v = .ok s) ∧
    (a < s.params.memWords → a ≠ 24576 →
      ∃ t, s.memWrite idx w a v = .ok t ∧ t.ram.read a = v ∧ (∀ b, b ≠ a → t.ram.read b = s.ram.read b) ∧
        t = { s with ram := t.ram, displayChanged := t.displayChanged } ∧
        (s.params.skipRedundantScreenWrites = false →
          t.displayChanged = (s.displayChanged || decide (16384 ≤ a ∧ a ≤ 24575))) ∧
        (s.params.skipRedundantScreenWrites = true →
          t.displayChanged = (s.displayChanged || decide (16384 ≤ a ∧ a ≤ 24575 ∧ s.ram.read a ≠ v))))

/-- Equal memories are equal data: the canonical form has one list for one contents (log 5). -/
def Obligations.CanonicalMemoriesAreEqualWhenTheyReadEqual : Prop :=
  ∀ m n : Memory, m.wf → n.wf → (∀ a, m.read a = n.read a) → m = n

/-- R44: `M=D` then `D=M` brings the value back, at every cell that exists but the keyboard's, whatever D was in between. -/
def Obligations.StoreThenLoadReturnsTheValue : Prop :=
  ∀ (s : State) (x : Word), s.A.toNat < s.params.memWords → s.A.toNat ≠ 24576 →
    ∃ t u, exec (.compD ⟨true, false, false⟩ .never) s = .next t ∧
      exec (.compM ⟨false, true, false⟩ .never) { t with D := x } = .next u ∧ u.D = s.D ∧ u.ram = t.ram

/-- R39, R43: no step changes the keyboard cell, and a store to it does everything else as usual. -/
def Obligations.KeyboardCellIsReadOnlyToPrograms : Prop :=
  (∀ s t : State, step s = .next t → t.ram.read 24576 = s.ram.read 24576) ∧
  (∀ (w : Word) (s : State), classify w = .compute → (destOf w).toM = true → s.params.wf → s.A.toNat = 24576 →
    exec (decode w) s = .next { s with
      A := if (destOf w).toA then Claim.compOf w s else s.A
      D := if (destOf w).toD then Claim.compOf w s else s.D
      pc := if Claim.jumpHolds (jumpOf w) (Claim.compOf w s) then 24576 else s.pc + 1 })

/-- R41 (every screen write reports: the spec's choice D14, log 19; with the parameter set, only a change does): when a compute
word sets display-changed. -/
def Obligations.ScreenWritesReport : Prop :=
  ∀ (w : Word) (s : State), classify w = .compute → Claim.accessOk w s →
    ∃ t, exec (decode w) s = .next t ∧
      t.displayChanged = (s.displayChanged ||
        decide ((destOf w).toM = true ∧ 16384 ≤ s.A.toNat ∧ s.A.toNat ≤ 24575 ∧
          (s.params.skipRedundantScreenWrites = true → s.ram.read s.A.toNat ≠ Claim.compOf w s)))

/-- R15, R24, R34: in any step at most the cell at the old A changes. -/
def Obligations.AStepChangesAtMostTheCellAtA : Prop :=
  ∀ s t : State, step s = .next t → ∀ a : Nat, a ≠ s.A.toNat → t.ram.read a = s.ram.read a

/-! ### Fatal errors -/

/-- R221: a word 0x8000..0xDFFF at pc raises DecodeError with the index and the word; nothing else changes. Said of the step and of
the three invalid instructions. The model's choices in it: an error answers next (log 1), the pc is then only bounded (log 2;
R226, U9 leave it unspecified), the invalid words are instructions (log 7). -/
def Obligations.InvalidWordsRaiseDecodeError : Prop :=
  (∀ (w : Word) (s : State), s.status = .running → s.fetch = some w → 0x8000 ≤ w.toNat → w.toNat ≤ 0xDFFF →
    ∃ t, step s = .next t ∧ Claim.faultedAs (.decodeError s.pc w) s t) ∧
  (∀ (low : BitVec 13) (s : State),
    (∃ t, exec (.illegal100 low) s = .next t ∧ Claim.faultedAs (.decodeError s.pc (0b100#3 ++ low)) s t) ∧
    (∃ t, exec (.illegal101 low) s = .next t ∧ Claim.faultedAs (.decodeError s.pc (0b101#3 ++ low)) s t) ∧
    (∃ t, exec (.illegal110 low) s = .next t ∧ Claim.faultedAs (.decodeError s.pc (0b110#3 ++ low)) s t))

/-- R222, R112 (the read at a = 1 always happens, D9; nothing is half done, D10; the size, D8; log 14, 15, 16; an error answers next, log 1; the pc, log 2): a compute word that
touches M at an address that does not exist raises AddressOutOfRange and does nothing else. -/
def Obligations.AccessOutOfRangeRaisesAndDoesNothing : Prop :=
  ∀ (w : Word) (s : State), classify w = .compute → Claim.touchesM w → s.params.memWords ≤ s.A.toNat →
    ∃ t, exec (decode w) s = .next t ∧ Claim.faultedAs (.addressOutOfRange s.pc w s.A.toNat) s t

/-- R223 (raised by the fetch, not by the jump: D7, log 13; an error answers next, log 1; the pc, log 2): no word at pc. -/
def Obligations.PcOutOfRangeIsRaisedByTheFetch : Prop :=
  ∀ s : State, s.status = .running → s.prog.length ≤ s.pc →
    ∃ t, step s = .next t ∧ Claim.faultedAs (.pcOutOfRange s.pc) s t

/-- R220, R224, R225 (names and diagnostics D11, log 16): which error a tick from status Running returns, each under its own
condition, with its diagnostic; under none of the conditions it returns success. -/
def Obligations.EachErrorUnderItsOwnCondition : Prop :=
  ∀ s : State, s.status = .running →
    (∀ i, s.tick.1 = some (.pcOutOfRange i) ↔ s.prog.length ≤ s.pc ∧ i = s.pc) ∧
    (∀ i w, s.tick.1 = some (.decodeError i w) ↔ s.fetch = some w ∧ classify w = .invalid ∧ i = s.pc) ∧
    (∀ i w a, s.tick.1 = some (.addressOutOfRange i w a) ↔
      s.fetch = some w ∧ classify w = .compute ∧ Claim.touchesM w ∧ s.params.memWords ≤ a ∧ i = s.pc ∧ a = s.A.toNat)

/-- R226, R17 (the status and its being final are the spec's choice D10, log 16; the outcomes are the model's, log 1): a tick in
status Faulted changes nothing and returns the same error. -/
def Obligations.FaultedIsTerminal : Prop :=
  ∀ (s : State) (e : FatalError), s.status = .faulted e → step s = .fault (.faulted e) ∧ s.tick = (some e, s)

/-- R226 (D10, log 16; an error answers next, log 1; the pc, log 2): whatever the error, a tick that ends in status Faulted has no partial effect. -/
def Obligations.AFailingTickHasNoPartialEffect : Prop :=
  ∀ s t : State, step s = .next t → t.status ≠ .running → ∃ e, Claim.faultedAs e s t

/-- Every compute pattern has a meaning (R105) and decoding is total (R68). That an invalid word is an instruction with a meaning
(log 7) and that a tick that raises an error answers next (log 1) is the model's choice. With both, every instruction, and
every core in status Running, has a next state; what it is, other statements say. -/
def Obligations.EveryWordHasAMeaning : Prop :=
  (∀ (i : Instr) (s : State), ∃ t, exec i s = .next t) ∧
  (∀ s : State, s.status = .running → ∃ t, step s = .next t)

/-! ### The step and the program counter -/

/-- A step runs the decoded instruction: where a word stands at pc, step is exec of what it decodes to, at the same state. The
meaning advances the pc (R230). -/
def Obligations.StepRunsTheDecodedInstruction : Prop :=
  ∀ (s : State) (w : Word), s.status = .running → s.prog[s.pc]? = some w → step s = exec (decode w) s

/-- A word placed with withFetchWord is the one the next step runs, whatever the state (log 6). -/
def Obligations.APlacedWordIsRunNext : Prop :=
  ∀ (s : State) (w : Word),
    step (s.withFetchWord 16 w.toNat) = exec (decode w) (s.withFetchWord 16 w.toNat) ∧
    (s.withFetchWord 16 w.toNat).A = s.A ∧ (s.withFetchWord 16 w.toNat).D = s.D ∧
    (s.withFetchWord 16 w.toNat).ram = s.ram ∧ (s.pc < 65536 → (s.withFetchWord 16 w.toNat).pc = s.pc)

/-- R199: a compute word whose condition holds is the only control transfer; its target is the absolute index in A, the next
instruction fetched is the one there, and any A is accepted by `0;JMP`; else the pc is one further. -/
def Obligations.ATrueComputeJumpIsTheOnlyTransfer : Prop :=
  (∀ (s t : State) (w : Word), s.status = .running → s.fetch = some w → step s = .next t → t.status = .running →
    t.pc = (if classify w = .compute ∧ jumpCond (jumpOf w) (Claim.compOf w s) = true then s.A.toNat else s.pc + 1) ∧
    t.fetch = (if classify w = .compute ∧ jumpCond (jumpOf w) (Claim.compOf w s) = true then s.prog[s.A.toNat]?
      else s.prog[s.pc + 1]?)) ∧
  (∀ s : State, exec (.zero ⟨false, false, false⟩ .jmp) s = .next { s with pc := s.A.toNat })

/-- R213 (with the code of D2, log 10): `0;JMP` at its own index is a loop that changes nothing: the core has no halt. -/
def Obligations.ASelfJumpChangesNothing : Prop :=
  ∀ s : State, s.status = .running → s.fetch = some 0xEA87#16 → s.A.toNat = s.pc → step s = .next s

/-- R46, R14: no step changes the word at any index of the instruction array; nor, by the model's choice of where the parameters of
R4 are held (log 4), the parameters. -/
def Obligations.NoStepChangesTheInstructionArray : Prop :=
  ∀ s t : State, step s = .next t → (∀ n : Nat, t.prog[n]? = s.prog[n]?) ∧ t.prog = s.prog ∧ t.params = s.params

/-- R230: the tick of the model, through the decoder and 132 meanings, is the one-piece listing of the rule on the raw word: the
same error or success, the same state, but that the pc of a tick that ends in an error is unspecified (R226, U9; log 2). -/
def Obligations.TheTickIsTheListing : Prop :=
  ∀ s : State,
    s.tick.1 = (Claim.tickListing s).1 ∧ Claim.agreeButPc s.tick.2 (Claim.tickListing s).2 ∧
    ((Claim.tickListing s).1 = none → s.tick.2 = (Claim.tickListing s).2) ∧
    (s.status ≠ .running → s.tick.2 = s)

/-! ### Invariants -/

/-- The state after reset meets the invariant (log 3: its instruction array is empty). -/
def Obligations.ResetMeetsTheInvariant : Prop := State.reset.Inv

/-- Every step keeps the invariant, from any state that meets it. -/
def Obligations.EveryStepKeepsTheInvariant : Prop :=
  ∀ s t : State, s.Inv → step s = .next t → t.Inv

/-- Construct with admissible parameters meets the invariant, and every host operation keeps it, from any state that meets it; so
every core the host can have meets it (R236). -/
def Obligations.EveryHostOperationKeepsTheInvariant : Prop :=
  (∀ (p : Params) (prog : List Word) (s : State), p.wf → State.construct p prog = .ok s → s.Inv) ∧
  (∀ (s : State) (op : HostOp), s.Inv → (s.hostStep op).Inv) ∧
  (∀ s : State, Reachable s → s.Inv)

/-! ### What cannot be seen -/

/-- R16, R19: display-changed is invisible to the program: two cores that differ only in it step alike. -/
def Obligations.DisplayChangedIsInvisibleToPrograms : Prop :=
  (∀ s t : State, step { s with displayChanged := false } = .next t →
    step { s with displayChanged := true } = .next { t with displayChanged := true }) ∧
  (∀ (s : State) (r : Fault), step { s with displayChanged := false } = .fault r → step { s with displayChanged := true } = .fault r)

/-- R34, R42: one step learns nothing of the cells other than the one at A. -/
def Obligations.OtherCellsDoNotInfluenceAStep : Prop :=
  ∀ (s t : State) (m : Memory), m.read s.A.toNat = s.ram.read s.A.toNat → step s = .next t →
    ∃ u, step { s with ram := m } = .next u ∧ u.A = t.A ∧ u.D = t.D ∧ (t.status = .running → u.pc = t.pc) ∧
      u.displayChanged = t.displayChanged ∧ u.status = t.status ∧ u.ram.read s.A.toNat = t.ram.read s.A.toNat

/-! ### The host -/

/-- R21, R250, R251 (A = D = 0 is the spec's choice D12, log 17): what construct leaves, and for which arrays. -/
def Obligations.ConstructLeavesTheResetState : Prop :=
  (∀ (p : Params) (prog : List Word), prog.length ≤ 65536 → ∃ s, State.construct p prog = .ok s ∧
    s.A = 0#16 ∧ s.D = 0#16 ∧ s.pc = 0 ∧ (∀ a, s.ram.read a = 0#16) ∧ s.displayChanged = false ∧
    s.status = .running ∧ s.prog = prog ∧ s.params = p) ∧
  (∀ (p : Params) (prog : List Word), 65536 < prog.length →
    State.construct p prog = .error (.programTooLong prog.length)) ∧
  State.construct { } [] = .ok State.reset

/-- R236, R238, R239 (the keyboard operation is the spec's own, D15; the clearing query D13; log 18, 20): what the host's two
changing operations do and leave. -/
def Obligations.TheHostChangesOnlyItsTwoPlaces : Prop :=
  ∀ (s : State) (v : Word),
    ((s.setKeyboard v).ram.read 24576 = v ∧ (∀ a, a ≠ 24576 → (s.setKeyboard v).ram.read a = s.ram.read a) ∧
      s.setKeyboard v = { s with ram := (s.setKeyboard v).ram }) ∧
    (s.queryDisplay.1 = s.displayChanged ∧ s.queryDisplay.2.displayChanged = false ∧
      s.queryDisplay.2 = { s with displayChanged := false } ∧ s.queryDisplay.2.queryDisplay.1 = false)

/-- R39, R238 (D15; U8; log 20): the program reads whatever the host last set, any 16-bit value, and ticks in between do not change it. -/
def Obligations.TheProgramReadsTheKeyTheHostSet : Prop :=
  ∀ (s t : State) (v : Word), step (s.setKeyboard v) = .next t → t.params.wf → t.A.toNat = 24576 →
    ∃ u, exec (.compM ⟨false, true, false⟩ .never) t = .next u ∧ u.D = v

/-- R240 (the spec's own definition, D21; log 23): a parked state is in the two-instruction loop; every step from a state of the
loop stays in it with A = e, and with D, RAM and display-changed as they were; so from a parked state, after any number of
further ticks, the pc is e or e + 1, A = e, nothing else has changed, and no error has happened. -/
def Obligations.AParkedCoreStaysInItsLoop : Prop :=
  (∀ (s : State) (e : Nat), s.ParkedAt e → s.InParkedLoop e) ∧
  (∀ (s : State) (e : Nat), s.InParkedLoop e →
    ∃ t, step s = .next t ∧ t.InParkedLoop e ∧ t.A = BitVec.ofNat 16 e ∧ t.D = s.D ∧ t.ram = s.ram ∧
      t.displayChanged = s.displayChanged) ∧
  (∀ (s : State) (e n : Nat), s.ParkedAt e →
    ∃ t : State, Host.Core.run Sys2Proof.core (n + 1) s = .next t ∧ t.A = BitVec.ofNat 16 e ∧ t.D = s.D ∧ t.ram = s.ram ∧
      t.displayChanged = s.displayChanged ∧ t.status = .running ∧ (t.pc = e ∨ t.pc = e + 1))

/-- The informative ports of R23 (D17; log 22) describe the tick: the memory after a step is the memory with dwdata at daddr where dwe
is high, and unchanged where it is low. -/
def Obligations.ThePortsDescribeTheMemoryWrite : Prop :=
  ∀ s t : State, step s = .next t →
    t.ram = if s.ports.dwe then s.ram.write s.ports.daddr.toNat s.ports.dwdata else s.ram

/-! ### Text -/

/-- R63, R83, R84 (which codes have a text and which text: D2, D18; log 10, 21): Format has a result just for the address words and
the compute words of the sanctioned codes. -/
def Obligations.FormatIsPartialOnTheSanctionedCodes : Prop :=
  ∀ w : Word, (format w).isSome = true ↔
    classify w = .address ∨ (classify w = .compute ∧ ∃ r ∈ sanctioned, r.1 = comp7Of w)

/-- R84 (its last sentence; D18, D19; log 21): assembling Format(w) gives w again, for every word that has a text. -/
def Obligations.AssemblingTheFormatGivesTheWord : Prop :=
  ∀ (w : Word) (t : Text), format w = some t → assemble [t] = .ok [w]

/-- R70, R82: a source that assembles gives one word for each real instruction and none for other lines, and no invalid word. -/
def Obligations.OneWordForEveryRealLine : Prop :=
  ∀ (lines : List Text) (ws : List Word), assemble lines = .ok ws →
    ∃ syms, parseLines lines = .ok syms ∧ ws.length = (syms.filter SymLine.real).length ∧
      ∀ w ∈ ws, classify w ≠ .invalid

/-- R80 (v), R78 (log 21 for the addresses passed over and the end of the counter): a new variable gets the counter's next address,
above every one allocated before, and no built-in address; the first two are 16 and 17; while the counter is below 32767 a
symbol that is no literal, built-in, label or variable always gets one. -/
def Obligations.NewVariablesNeverReuseABuiltInAddress : Prop :=
  (∀ j k : Nat, j < k → variableAddress j < variableAddress k) ∧
  (variableAddress 0 = 16 ∧ variableAddress 1 = 17) ∧
  (∀ (labels : List (Text × Nat)) (vars vars' : Vars) (t : Text) (n : Nat), resolve labels vars t = .ok (n, vars') →
    vars' = vars ∨
      (vars' = vars ++ [(t, n)] ∧ n = variableAddress vars.length ∧ n ≤ 32767 ∧ ∀ b ∈ builtins, n ≠ b.2)) ∧
  (∀ (labels : List (Text × Nat)) (vars : Vars) (t : Text), isNegativeLiteral t = false → parseLiteral t = none →
    lookup t builtins = none → lookup t labels = none → lookup t vars = none → variableAddress vars.length < 32767 →
    resolve labels vars t = .ok (variableAddress vars.length, vars ++ [(t, variableAddress vars.length)]))
end

