-- ==== Sys2Proof/Laws/Memory.lean ====
section
/-! SUPPORT. The laws of the data memory: a cell reads what was last written to it and no other cell changes (20_memory.md R44,
R43), and every operation keeps the canonical form. -/

namespace Sys2Proof.Machine

@[simp] theorem Memory.read_nil (a : Nat) : Memory.read [] a = Memory.unlisted := rfl

theorem Memory.read_cons (c : Nat × Word) (m : Memory) (a : Nat) :
    Memory.read (c :: m) a = if a = c.1 then c.2 else Memory.read m a := rfl

theorem Memory.erase_cons (c : Nat × Word) (m : Memory) (a : Nat) :
    Memory.erase (c :: m) a = if c.1 = a then Memory.erase m a else c :: Memory.erase m a := by
  by_cases h : c.1 = a <;> simp [Memory.erase, h]

theorem Memory.read_erase_same (m : Memory) (a : Nat) : (Memory.erase m a).read a = Memory.unlisted := by
  induction m with
  | nil => rfl
  | cons c m ih =>
    rw [Memory.erase_cons]
    split
    · exact ih
    · next h => rw [Memory.read_cons, if_neg (fun e => h e.symm), ih]

theorem Memory.read_erase_other (m : Memory) {a b : Nat} (hb : b ≠ a) : (Memory.erase m a).read b = m.read b := by
  induction m with
  | nil => rfl
  | cons c m ih =>
    rw [Memory.erase_cons]
    split
    · next h => rw [Memory.read_cons, if_neg (by omega), ih]
    · rw [Memory.read_cons, Memory.read_cons, ih]

theorem Memory.read_insert_same (m : Memory) (a : Nat) (v : Word) (h : ∀ c ∈ m, c.1 ≠ a) :
    (Memory.insert m a v).read a = v := by
  induction m with
  | nil => simp [Memory.insert, Memory.read]
  | cons c m ih =>
    rw [Memory.insert]
    split
    · simp [Memory.read]
    · rw [Memory.read_cons, if_neg (fun e => h c (by simp) e.symm), ih (fun d hd => h d (by simp [hd]))]

theorem Memory.read_insert_other (m : Memory) {a b : Nat} (v : Word) (hb : b ≠ a) :
    (Memory.insert m a v).read b = m.read b := by
  induction m with
  | nil => simp [Memory.insert, Memory.read, hb]
  | cons c m ih =>
    rw [Memory.insert]
    split
    · rw [Memory.read_cons, if_neg hb]
    · rw [Memory.read_cons, Memory.read_cons, ih]

theorem Memory.mem_erase {m : Memory} {a : Nat} {c : Nat × Word} : c ∈ Memory.erase m a ↔ c ∈ m ∧ c.1 ≠ a := by
  simp [Memory.erase]

theorem Memory.mem_insert {m : Memory} {a : Nat} {v : Word} {c : Nat × Word} :
    c ∈ Memory.insert m a v ↔ c = (a, v) ∨ c ∈ m := by
  induction m with
  | nil => simp [Memory.insert]
  | cons d m ih =>
    rw [Memory.insert]
    split
    · simp
    · simp only [List.mem_cons, ih]; tauto

/-- A read after a write to the same cell gives the value written. -/
@[simp] theorem Memory.read_write_same (m : Memory) (a : Nat) (v : Word) : (m.write a v).read a = v := by
  rw [Memory.write]
  split
  · next h => rw [Memory.read_erase_same, h]
  · exact Memory.read_insert_same _ _ _ (fun c hc => (Memory.mem_erase.mp hc).2)

/-- A write leaves every other cell alone. -/
theorem Memory.read_write_other (m : Memory) {a b : Nat} (v : Word) (hb : b ≠ a) : (m.write a v).read b = m.read b := by
  rw [Memory.write]
  split
  · exact Memory.read_erase_other m hb
  · rw [Memory.read_insert_other _ _ hb, Memory.read_erase_other m hb]

theorem Memory.erase_wf {m : Memory} (a : Nat) (h : m.wf) : (Memory.erase m a).wf :=
  ⟨h.1.filter _, fun c hc => h.2 c (Memory.mem_erase.mp hc).1⟩

theorem Memory.insert_wf {m : Memory} {a : Nat} {v : Word} (hm : m.wf) (ha : ∀ c ∈ m, c.1 ≠ a) (hv : v ≠ Memory.unlisted) :
    (Memory.insert m a v).wf := by
  induction m with
  | nil => simpa [Memory.insert, Memory.wf] using hv
  | cons c m ih =>
    obtain ⟨hp, hn⟩ := hm
    rw [List.pairwise_cons] at hp
    have hca := ha c (by simp)
    rw [Memory.insert]
    split
    · next hlt =>
      refine ⟨List.pairwise_cons.mpr ⟨fun d hd => ?_, List.pairwise_cons.mpr hp⟩, fun d hd => ?_⟩
      · rcases List.mem_cons.mp hd with rfl | hd
        · exact hlt
        · exact lt_trans hlt (hp.1 d hd)
      · rcases List.mem_cons.mp hd with rfl | hd
        · exact hv
        · exact hn d hd
    · next hlt =>
      have ih := ih ⟨hp.2, fun d hd => hn d (by simp [hd])⟩ (fun d hd => ha d (by simp [hd]))
      refine ⟨List.pairwise_cons.mpr ⟨fun d hd => ?_, ih.1⟩, fun d hd => ?_⟩
      · rcases Memory.mem_insert.mp hd with rfl | hd
        · show c.1 < a
          omega
        · exact hp.1 d hd
      · rcases List.mem_cons.mp hd with rfl | hd
        · exact hn _ (by simp)
        · exact ih.2 d hd

/-- Every write keeps the canonical form. -/
theorem Memory.write_wf {m : Memory} (a : Nat) (v : Word) (h : m.wf) : (m.write a v).wf := by
  rw [Memory.write]
  split
  · exact Memory.erase_wf a h
  · next hv => exact Memory.insert_wf (Memory.erase_wf a h) (fun c hc => (Memory.mem_erase.mp hc).2) hv

/-- A write lists no cell but the one written and those listed before. -/
theorem Memory.mem_write {m : Memory} {a : Nat} {v : Word} {c : Nat × Word} (h : c ∈ m.write a v) : c.1 = a ∨ c ∈ m := by
  rw [Memory.write] at h
  split at h
  · exact .inr (Memory.mem_erase.mp h).1
  · rcases Memory.mem_insert.mp h with rfl | h
    · exact .inl rfl
    · exact .inr (Memory.mem_erase.mp h).1

/-- The empty memory is in canonical form and reads 0 everywhere. -/
theorem Memory.nil_wf : Memory.wf [] := by simp [Memory.wf]

end Sys2Proof.Machine
end

