-- ==== Sys2Proof/Laws/State.lean ====
section
/-! SUPPORT. One lemma per field and per update of the state, so that no proof unfolds a record update. -/

namespace Sys2Proof.Machine

variable (s : State)

@[simp] theorem State.setA_A (v : Word) : (s.setA v).A = v := rfl
@[simp] theorem State.setA_D (v : Word) : (s.setA v).D = s.D := rfl
@[simp] theorem State.setA_pc (v : Word) : (s.setA v).pc = s.pc := rfl
@[simp] theorem State.setA_ram (v : Word) : (s.setA v).ram = s.ram := rfl
@[simp] theorem State.setA_displayChanged (v : Word) : (s.setA v).displayChanged = s.displayChanged := rfl
@[simp] theorem State.setA_status (v : Word) : (s.setA v).status = s.status := rfl
@[simp] theorem State.setA_prog (v : Word) : (s.setA v).prog = s.prog := rfl
@[simp] theorem State.setA_params (v : Word) : (s.setA v).params = s.params := rfl
@[simp] theorem State.setA_draws (v : Word) : (s.setA v).draws = s.draws := rfl

@[simp] theorem State.setD_A (v : Word) : (s.setD v).A = s.A := rfl
@[simp] theorem State.setD_D (v : Word) : (s.setD v).D = v := rfl
@[simp] theorem State.setD_pc (v : Word) : (s.setD v).pc = s.pc := rfl
@[simp] theorem State.setD_ram (v : Word) : (s.setD v).ram = s.ram := rfl
@[simp] theorem State.setD_displayChanged (v : Word) : (s.setD v).displayChanged = s.displayChanged := rfl
@[simp] theorem State.setD_status (v : Word) : (s.setD v).status = s.status := rfl
@[simp] theorem State.setD_prog (v : Word) : (s.setD v).prog = s.prog := rfl
@[simp] theorem State.setD_params (v : Word) : (s.setD v).params = s.params := rfl
@[simp] theorem State.setD_draws (v : Word) : (s.setD v).draws = s.draws := rfl

@[simp] theorem State.setPc_A (t : Nat) : (s.setPc t).A = s.A := rfl
@[simp] theorem State.setPc_D (t : Nat) : (s.setPc t).D = s.D := rfl
@[simp] theorem State.setPc_pc (t : Nat) : (s.setPc t).pc = t := rfl
@[simp] theorem State.setPc_ram (t : Nat) : (s.setPc t).ram = s.ram := rfl
@[simp] theorem State.setPc_displayChanged (t : Nat) : (s.setPc t).displayChanged = s.displayChanged := rfl
@[simp] theorem State.setPc_status (t : Nat) : (s.setPc t).status = s.status := rfl
@[simp] theorem State.setPc_prog (t : Nat) : (s.setPc t).prog = s.prog := rfl
@[simp] theorem State.setPc_params (t : Nat) : (s.setPc t).params = s.params := rfl
@[simp] theorem State.setPc_draws (t : Nat) : (s.setPc t).draws = s.draws := rfl

@[simp] theorem State.advance_A  : (s.advance).A = s.A := rfl
@[simp] theorem State.advance_D  : (s.advance).D = s.D := rfl
@[simp] theorem State.advance_pc  : (s.advance).pc = s.pc + 1 := rfl
@[simp] theorem State.advance_ram  : (s.advance).ram = s.ram := rfl
@[simp] theorem State.advance_displayChanged  : (s.advance).displayChanged = s.displayChanged := rfl
@[simp] theorem State.advance_status  : (s.advance).status = s.status := rfl
@[simp] theorem State.advance_prog  : (s.advance).prog = s.prog := rfl
@[simp] theorem State.advance_params  : (s.advance).params = s.params := rfl
@[simp] theorem State.advance_draws  : (s.advance).draws = s.draws := rfl

@[simp] theorem State.takeFatal_A (e : FatalError) : (s.takeFatal e).A = s.A := rfl
@[simp] theorem State.takeFatal_D (e : FatalError) : (s.takeFatal e).D = s.D := rfl
@[simp] theorem State.takeFatal_pc (e : FatalError) : (s.takeFatal e).pc = (Config.freePc s.draws).val := rfl
@[simp] theorem State.takeFatal_ram (e : FatalError) : (s.takeFatal e).ram = s.ram := rfl
@[simp] theorem State.takeFatal_displayChanged (e : FatalError) : (s.takeFatal e).displayChanged = s.displayChanged := rfl
@[simp] theorem State.takeFatal_status (e : FatalError) : (s.takeFatal e).status = .faulted e := rfl
@[simp] theorem State.takeFatal_prog (e : FatalError) : (s.takeFatal e).prog = s.prog := rfl
@[simp] theorem State.takeFatal_params (e : FatalError) : (s.takeFatal e).params = s.params := rfl
@[simp] theorem State.takeFatal_draws (e : FatalError) : (s.takeFatal e).draws = s.draws + 1 := rfl

@[simp] theorem State.setKeyboard_A (v : Word) : (s.setKeyboard v).A = s.A := rfl
@[simp] theorem State.setKeyboard_D (v : Word) : (s.setKeyboard v).D = s.D := rfl
@[simp] theorem State.setKeyboard_pc (v : Word) : (s.setKeyboard v).pc = s.pc := rfl
@[simp] theorem State.setKeyboard_ram (v : Word) : (s.setKeyboard v).ram = s.ram.write kbd v := rfl
@[simp] theorem State.setKeyboard_displayChanged (v : Word) : (s.setKeyboard v).displayChanged = s.displayChanged := rfl
@[simp] theorem State.setKeyboard_status (v : Word) : (s.setKeyboard v).status = s.status := rfl
@[simp] theorem State.setKeyboard_prog (v : Word) : (s.setKeyboard v).prog = s.prog := rfl
@[simp] theorem State.setKeyboard_params (v : Word) : (s.setKeyboard v).params = s.params := rfl
@[simp] theorem State.setKeyboard_draws (v : Word) : (s.setKeyboard v).draws = s.draws := rfl

@[simp] theorem State.jumpIf_A (taken : Bool) (t : Nat) : (s.jumpIf taken t).A = s.A := by cases taken <;> rfl
@[simp] theorem State.jumpIf_D (taken : Bool) (t : Nat) : (s.jumpIf taken t).D = s.D := by cases taken <;> rfl
@[simp] theorem State.jumpIf_pc (taken : Bool) (t : Nat) : (s.jumpIf taken t).pc = if taken then t else s.pc := by cases taken <;> rfl
@[simp] theorem State.jumpIf_ram (taken : Bool) (t : Nat) : (s.jumpIf taken t).ram = s.ram := by cases taken <;> rfl
@[simp] theorem State.jumpIf_displayChanged (taken : Bool) (t : Nat) : (s.jumpIf taken t).displayChanged = s.displayChanged := by cases taken <;> rfl
@[simp] theorem State.jumpIf_status (taken : Bool) (t : Nat) : (s.jumpIf taken t).status = s.status := by cases taken <;> rfl
@[simp] theorem State.jumpIf_prog (taken : Bool) (t : Nat) : (s.jumpIf taken t).prog = s.prog := by cases taken <;> rfl
@[simp] theorem State.jumpIf_params (taken : Bool) (t : Nat) : (s.jumpIf taken t).params = s.params := by cases taken <;> rfl
@[simp] theorem State.jumpIf_draws (taken : Bool) (t : Nat) : (s.jumpIf taken t).draws = s.draws := by cases taken <;> rfl

@[simp] theorem State.storeA_A (b : Bool) (v : Word) : (s.storeA b v).A = if b then v else s.A := by cases b <;> rfl
@[simp] theorem State.storeA_D (b : Bool) (v : Word) : (s.storeA b v).D = s.D := by cases b <;> rfl
@[simp] theorem State.storeA_pc (b : Bool) (v : Word) : (s.storeA b v).pc = s.pc := by cases b <;> rfl
@[simp] theorem State.storeA_ram (b : Bool) (v : Word) : (s.storeA b v).ram = s.ram := by cases b <;> rfl
@[simp] theorem State.storeA_displayChanged (b : Bool) (v : Word) : (s.storeA b v).displayChanged = s.displayChanged := by cases b <;> rfl
@[simp] theorem State.storeA_status (b : Bool) (v : Word) : (s.storeA b v).status = s.status := by cases b <;> rfl
@[simp] theorem State.storeA_prog (b : Bool) (v : Word) : (s.storeA b v).prog = s.prog := by cases b <;> rfl
@[simp] theorem State.storeA_params (b : Bool) (v : Word) : (s.storeA b v).params = s.params := by cases b <;> rfl
@[simp] theorem State.storeA_draws (b : Bool) (v : Word) : (s.storeA b v).draws = s.draws := by cases b <;> rfl

@[simp] theorem State.storeD_A (b : Bool) (v : Word) : (s.storeD b v).A = s.A := by cases b <;> rfl
@[simp] theorem State.storeD_D (b : Bool) (v : Word) : (s.storeD b v).D = if b then v else s.D := by cases b <;> rfl
@[simp] theorem State.storeD_pc (b : Bool) (v : Word) : (s.storeD b v).pc = s.pc := by cases b <;> rfl
@[simp] theorem State.storeD_ram (b : Bool) (v : Word) : (s.storeD b v).ram = s.ram := by cases b <;> rfl
@[simp] theorem State.storeD_displayChanged (b : Bool) (v : Word) : (s.storeD b v).displayChanged = s.displayChanged := by cases b <;> rfl
@[simp] theorem State.storeD_status (b : Bool) (v : Word) : (s.storeD b v).status = s.status := by cases b <;> rfl
@[simp] theorem State.storeD_prog (b : Bool) (v : Word) : (s.storeD b v).prog = s.prog := by cases b <;> rfl
@[simp] theorem State.storeD_params (b : Bool) (v : Word) : (s.storeD b v).params = s.params := by cases b <;> rfl
@[simp] theorem State.storeD_draws (b : Bool) (v : Word) : (s.storeD b v).draws = s.draws := by cases b <;> rfl

end Sys2Proof.Machine
end

