-- ==== Sys2Proof/Laws/Compute.lean ====
section
/-! SUPPORT. What each shared operation of a compute instruction can do, said once: the operand, the store, the tick; and that
exec of a decoded compute word is the tick of its fields. -/

namespace Sys2Proof.Machine

/-- The invalid case of `memRead`, and the valid one (R35). -/
theorem State.memRead_bad {s : State} {idx a : Nat} {w : Word} (h : s.params.memWords ≤ a) :
    s.memRead idx w a = .error (.addressOutOfRange idx w a) := by simp [State.memRead, h]

theorem State.memRead_ok {s : State} {idx a : Nat} {w : Word} (h : a < s.params.memWords) :
    s.memRead idx w a = .ok (s.ram.read a) := by simp [State.memRead, Nat.not_le.mpr h]

/-- y of R102 where the cell exists or is not asked for. -/
def State.yOf (s : State) (mode : Mode) : Word :=
  match mode with
  | .aMode => s.A
  | .mMode => s.ram.read s.ea

theorem State.operandY_ok {s : State} {mode : Mode} {idx : Nat} {w : Word} (h : mode = .mMode → s.ea < s.params.memWords) :
    s.operandY mode idx w = .ok (s.yOf mode) := by
  cases mode with
  | aMode => rfl
  | mMode => exact State.memRead_ok (h rfl)

theorem State.operandY_bad {s : State} {idx : Nat} {w : Word} (h : s.params.memWords ≤ s.ea) :
    s.operandY .mMode idx w = .error (.addressOutOfRange idx w s.ea) := State.memRead_bad h

/-- The memory a store of `v` at `a` leaves (R36, R39). -/
def State.storedRam (s : State) (toM : Bool) (a : Nat) (v : Word) : Memory :=
  if toM = true ∧ a ≠ kbd then s.ram.write a v else s.ram

/-- The display-changed bit a store of `v` at `a` leaves (R36, R41). -/
def State.storedDisplay (s : State) (toM : Bool) (a : Nat) (v : Word) : Bool :=
  s.displayChanged || (toM && a != kbd && s.displayReport a v)

/-- All a store to an existing cell, or no store, can do. -/
theorem State.storeM_ok {s : State} {toM : Bool} {idx a : Nat} {w v : Word} (h : toM = true → a < s.params.memWords) :
    s.storeM toM idx w a v =
      .ok { s with ram := s.storedRam toM a v, displayChanged := s.storedDisplay toM a v } := by
  cases toM with
  | false => simp [State.storeM, State.storedRam, State.storedDisplay]
  | true =>
    have h := Nat.not_le.mpr (h rfl)
    by_cases hk : a = kbd
    · subst hk; simp [State.storeM, State.memWrite, State.storedRam, State.storedDisplay, h]
    · simp [State.storeM, State.memWrite, State.storedRam, State.storedDisplay, h, hk, bne_iff_ne.mpr hk]

theorem State.storeM_bad {s : State} {idx a : Nat} {w v : Word} (h : s.params.memWords ≤ a) :
    s.storeM true idx w a v = .error (.addressOutOfRange idx w a) := by simp [State.storeM, State.memWrite, h]

/-- The display report reads only the memory and the parameters. -/
theorem State.displayReport_congr {s t : State} (hr : s.ram = t.ram) (hp : s.params = t.params) (a : Nat) (v : Word) :
    s.displayReport a v = t.displayReport a v := by simp [State.displayReport, hr, hp]

/-- Every field a compute tick leaves when the cell it touches exists. -/
theorem computeTick_ok {mode : Mode} (c : BitVec 6) {dest : Dest} (jump : Jump) {s : State}
    (h : (mode = .mMode ∨ dest.toM = true) → s.ea < s.params.memWords) :
    computeTick mode c dest jump s = .next
      { A := if dest.toA then alu c s.D (s.yOf mode) else s.A
        D := if dest.toD then alu c s.D (s.yOf mode) else s.D
        pc := if jumpCond jump (alu c s.D (s.yOf mode)) then s.ea else s.pc + 1
        ram := s.storedRam dest.toM s.ea (alu c s.D (s.yOf mode))
        displayChanged := s.storedDisplay dest.toM s.ea (alu c s.D (s.yOf mode))
        status := s.status
        prog := s.prog
        params := s.params
        draws := s.draws } := by
  have h2 : ∀ v b, (s.advance.jumpIf b s.ea).storeM dest.toM s.pc
      (constructCompute dest.bits (comp7Join mode c) jump.bits) s.ea v = _ :=
    fun v b => State.storeM_ok (by simpa using fun e => h (.inr e))
  simp only [computeTick, State.operandY_ok (fun e => h (.inl e))]
  rw [h2]
  obtain ⟨m, d, a⟩ := dest
  cases m <;> cases d <;> cases a <;> cases hc : jumpCond jump (alu c s.D (s.yOf mode)) <;>
    simp [State.storeA, State.storeD, State.setA, State.setD, State.jumpIf, State.advance, State.setPc,
      State.storedRam, State.storedDisplay, State.displayReport]

/-- All a compute tick does when the cell it touches does not exist (R112, R222). -/
theorem computeTick_bad {mode : Mode} (c : BitVec 6) {dest : Dest} (jump : Jump) {s : State}
    (ht : mode = .mMode ∨ dest.toM = true) (h : s.params.memWords ≤ s.ea) :
    computeTick mode c dest jump s = .next
      (s.takeFatal (.addressOutOfRange s.pc (constructCompute dest.bits (comp7Join mode c) jump.bits) s.ea)) := by
  cases mode with
  | mMode => simp only [computeTick, State.operandY_bad h]
  | aMode =>
    have ht : dest.toM = true := ht.resolve_left (by simp)
    have h2 : ∀ v b w, (s.advance.jumpIf b s.ea).storeM dest.toM s.pc w s.ea v = .error (.addressOutOfRange s.pc w s.ea) :=
      fun v b w => by rw [ht]; exact State.storeM_bad (by simpa using h)
    simp only [computeTick, State.operandY, h2]

/-- A statement about the 64 control patterns, one by one. -/
theorem forall_control {P : BitVec 6 → Prop} (h : ∀ n, n < 64 → P (BitVec.ofNat 6 n)) (c : BitVec 6) : P c := by
  have := h c.toNat c.isLt
  rwa [BitVec.ofNat_toNat, BitVec.setWidth_eq] at this

theorem exec_decodeAMode (c : BitVec 6) (dest : Dest) (jump : Jump) (s : State) :
    exec (decodeAMode c dest jump) s = computeTick .aMode c dest jump s := by
  refine forall_control (P := fun c => exec (decodeAMode c dest jump) s = computeTick .aMode c dest jump s) (fun n hn => ?_) c
  interval_cases n <;> rfl

theorem exec_decodeMMode (c : BitVec 6) (dest : Dest) (jump : Jump) (s : State) :
    exec (decodeMMode c dest jump) s = computeTick .mMode c dest jump s := by
  refine forall_control (P := fun c => exec (decodeMMode c dest jump) s = computeTick .mMode c dest jump s) (fun n hn => ?_) c
  interval_cases n <;> rfl

/-- exec of a decoded address word. -/
theorem exec_decode_address {w : Word} (h : classify w = .address) (s : State) :
    exec (decode w) s = .next (s.advance.setA (constructAddress w)) := by
  unfold decode; rw [h]; rfl

/-- exec of a decoded compute word is the tick of its fields (R100, R101). -/
theorem exec_decode_compute {w : Word} (h : classify w = .compute) (s : State) :
    exec (decode w) s = computeTick (modeOf w) (controlOf w) (destOf w) (jumpOf w) s := by
  unfold decode
  rw [h]
  cases hm : modeOf w with
  | aMode => exact exec_decodeAMode _ _ _ s
  | mMode => exact exec_decodeMMode _ _ _ s

/-- A word of class invalid is one of the three prefixes joined to its low 13 bits. -/
theorem decode_invalid {w : Word} (h : classify w = .invalid) :
    (decode w = .illegal100 (w.extractLsb' 0 13) ∧ w = invalidWord 0b100#3 (w.extractLsb' 0 13)) ∨
    (decode w = .illegal101 (w.extractLsb' 0 13) ∧ w = invalidWord 0b101#3 (w.extractLsb' 0 13)) ∨
    (decode w = .illegal110 (w.extractLsb' 0 13) ∧ w = invalidWord 0b110#3 (w.extractLsb' 0 13)) := by
  have split : w = (w.extractLsb' 13 3 : BitVec 3) ++ (w.extractLsb' 0 13 : BitVec 13) := by
    apply BitVec.eq_of_getLsbD_eq
    intro i hi
    rw [BitVec.getLsbD_append, BitVec.getLsbD_extractLsb', BitVec.getLsbD_extractLsb']
    by_cases h13 : i < 13
    · simp [h13]
    · simp [h13, show i - 13 < 3 by omega, show 13 + (i - 13) = i by omega]
  have high : ∀ b : BitVec 3, w.getLsbD 15 = b.getLsbD 2 → w.getLsbD 14 = b.getLsbD 1 → w.getLsbD 13 = b.getLsbD 0 →
      w.extractLsb' 13 3 = b := by
    intro b h2 h1 h0
    apply BitVec.eq_of_getLsbD_eq
    intro i hi
    rw [BitVec.getLsbD_extractLsb']
    interval_cases i
    · exact h0
    · exact h1
    · exact h2
  have hd : decode w = match w.getLsbD 14, w.getLsbD 13 with
    | false, false => .illegal100 (w.extractLsb' 0 13)
    | false, true => .illegal101 (w.extractLsb' 0 13)
    | true, _ => .illegal110 (w.extractLsb' 0 13) := by
    unfold decode; generalize classify w = c at h; subst h; rfl
  unfold classify at h
  generalize h15 : w.getLsbD 15 = b15 at *
  generalize h14 : w.getLsbD 14 = b14 at *
  generalize h13 : w.getLsbD 13 = b13 at *
  cases b15 <;> cases b14 <;> cases b13 <;> simp only [reduceCtorEq] at h
  · exact .inl ⟨hd, by rw [← high 0b100#3 rfl rfl rfl]; exact split⟩
  · exact .inr (.inl ⟨hd, by rw [← high 0b101#3 rfl rfl rfl]; exact split⟩)
  · exact .inr (.inr ⟨hd, by rw [← high 0b110#3 rfl rfl rfl]; exact split⟩)

/-- exec of a decoded invalid word (R221). -/
theorem exec_decode_invalid {w : Word} (h : classify w = .invalid) (s : State) :
    exec (decode w) s = .next (s.takeFatal (.decodeError s.pc w)) := by
  rcases decode_invalid h with ⟨hd, hw⟩ | ⟨hd, hw⟩ | ⟨hd, hw⟩ 
  · rw [hd]; conv_rhs => rw [hw]
    rfl
  · rw [hd]; conv_rhs => rw [hw]
    rfl
  · rw [hd]; conv_rhs => rw [hw]
    rfl

end Sys2Proof.Machine
end

