-- ==== Sys2Proof/Laws/Encoding.lean ====
section
/-! SUPPORT. The laws of classification, of the fields of a word and of its constructors (30_encoding.md R51, R58, R59). -/

namespace Sys2Proof

theorem classify_constructAddress (v : Word) : classify (constructAddress v) = .address := by
  have h : (constructAddress v).getLsbD 15 = false := by
    rw [constructAddress, BitVec.getLsbD_and]
    simp
  unfold classify
  rw [h]

theorem getLsbD_constructCompute (d : BitVec 3) (c7 : BitVec 7) (j : BitVec 3) (i : Nat) (h : i < 16) :
    (constructCompute d c7 j).getLsbD i =
      if 13 ≤ i then true else if 6 ≤ i then c7.getLsbD (i - 6) else if 3 ≤ i then d.getLsbD (i - 3) else j.getLsbD i := by
  simp only [constructCompute, BitVec.getLsbD_or, BitVec.getLsbD_shiftLeft, BitVec.getLsbD_setWidth, h, decide_true, Bool.true_and]
  interval_cases i <;> simp

theorem classify_constructCompute (d : BitVec 3) (c7 : BitVec 7) (j : BitVec 3) :
    classify (constructCompute d c7 j) = .compute := by
  unfold classify
  rw [getLsbD_constructCompute _ _ _ 15 (by omega), getLsbD_constructCompute _ _ _ 14 (by omega),
    getLsbD_constructCompute _ _ _ 13 (by omega)]
  rfl

@[simp] theorem comp7Of_constructCompute (d : BitVec 3) (c7 : BitVec 7) (j : BitVec 3) :
    comp7Of (constructCompute d c7 j) = c7 := by
  apply BitVec.eq_of_getLsbD_eq
  intro i hi
  rw [comp7Of, BitVec.getLsbD_extractLsb', getLsbD_constructCompute _ _ _ _ (by omega)]
  simp [hi, show ¬ 13 ≤ 6 + i by omega]

@[simp] theorem controlOf_constructCompute (d : BitVec 3) (c7 : BitVec 7) (j : BitVec 3) :
    controlOf (constructCompute d c7 j) = c7.extractLsb' 0 6 := by
  apply BitVec.eq_of_getLsbD_eq
  intro i hi
  rw [controlOf, BitVec.getLsbD_extractLsb', getLsbD_constructCompute _ _ _ _ (by omega), BitVec.getLsbD_extractLsb']
  simp [hi, show ¬ 13 ≤ 6 + i by omega]

@[simp] theorem modeOf_constructCompute (d : BitVec 3) (c7 : BitVec 7) (j : BitVec 3) :
    modeOf (constructCompute d c7 j) = if c7.getLsbD 6 then .mMode else .aMode := by
  rw [modeOf, getLsbD_constructCompute _ _ _ _ (by omega)]
  rfl

@[simp] theorem destBitsOf_constructCompute (d : BitVec 3) (c7 : BitVec 7) (j : BitVec 3) :
    destBitsOf (constructCompute d c7 j) = d := by
  apply BitVec.eq_of_getLsbD_eq
  intro i hi
  rw [destBitsOf, BitVec.getLsbD_extractLsb', getLsbD_constructCompute _ _ _ _ (by omega)]
  simp [hi, show ¬ 13 ≤ 3 + i by omega, show ¬ 6 ≤ 3 + i by omega]

@[simp] theorem jumpBitsOf_constructCompute (d : BitVec 3) (c7 : BitVec 7) (j : BitVec 3) :
    jumpBitsOf (constructCompute d c7 j) = j := by
  apply BitVec.eq_of_getLsbD_eq
  intro i hi
  rw [jumpBitsOf, BitVec.getLsbD_extractLsb', getLsbD_constructCompute _ _ _ _ (by omega)]
  simp [hi, show ¬ 13 ≤ i by omega, show ¬ 6 ≤ i by omega, show ¬ 3 ≤ i by omega]

/-- The round-trip law of R59 for compute words: the three fields put in are the three read back. -/
@[simp] theorem fieldsOf_constructCompute (d : BitVec 3) (c7 : BitVec 7) (j : BitVec 3) :
    fieldsOf (constructCompute d c7 j) = (d, c7, j) := by simp [fieldsOf]

/-- The round-trip law of R59 for address words: the value field of a constructed word is the argument's low 15 bits. -/
@[simp] theorem valueOf_constructAddress (v : Word) : valueOf (constructAddress v) = v.extractLsb' 0 15 := by
  apply BitVec.eq_of_getLsbD_eq
  intro i hi
  rw [valueOf, constructAddress, BitVec.getLsbD_extractLsb', BitVec.getLsbD_extractLsb', BitVec.getLsbD_and]
  interval_cases i <;> simp

@[simp] theorem Dest.ofBits_bits (d : Dest) : Dest.ofBits d.bits = d := by
  obtain ⟨m, e, a⟩ := d
  cases m <;> cases e <;> cases a <;> rfl

@[simp] theorem Dest.bits_ofBits (b : BitVec 3) : (Dest.ofBits b).bits = b := by
  revert b; decide

@[simp] theorem Jump.ofBits_bits (j : Jump) : Jump.ofBits j.bits = j := by cases j <;> rfl

@[simp] theorem Jump.bits_ofBits (b : BitVec 3) : (Jump.ofBits b).bits = b := by
  revert b; decide

theorem classify_invalid100 (low : BitVec 13) : classify (invalidWord 0b100#3 low) = .invalid := by
  unfold classify invalidWord
  rw [BitVec.getLsbD_append, BitVec.getLsbD_append, BitVec.getLsbD_append]
  rfl

theorem classify_invalid101 (low : BitVec 13) : classify (invalidWord 0b101#3 low) = .invalid := by
  unfold classify invalidWord
  rw [BitVec.getLsbD_append, BitVec.getLsbD_append, BitVec.getLsbD_append]
  rfl

theorem classify_invalid110 (low : BitVec 13) : classify (invalidWord 0b110#3 low) = .invalid := by
  unfold classify invalidWord
  rw [BitVec.getLsbD_append, BitVec.getLsbD_append, BitVec.getLsbD_append]
  rfl

end Sys2Proof
end

