-- ==== Sys2Proof/Laws/PerInstr.lean ====
section
/-! SUPPORT. The family EncodingClass, one lemma per constructor: the word an instruction encodes to is of the class its
constructor stands for (30_encoding.md R51, R59). -/

namespace Sys2Proof.Laws.EncodingClass

/-- The class R51 gives the constructor. -/
def expected : Instr → WordClass
  | .addressValue _ => .address
  | .illegal100 _ => .invalid
  | .illegal101 _ => .invalid
  | .illegal110 _ => .invalid
  | .dAndA _ _ => .compute
  | .uA000001 _ _ => .compute
  | .dPlusA _ _ => .compute
  | .uA000011 _ _ => .compute
  | .uA000100 _ _ => .compute
  | .uA000101 _ _ => .compute
  | .uA000110 _ _ => .compute
  | .aMinusD _ _ => .compute
  | .uA001000 _ _ => .compute
  | .uA001001 _ _ => .compute
  | .uA001010 _ _ => .compute
  | .uA001011 _ _ => .compute
  | .compD _ _ => .compute
  | .notD _ _ => .compute
  | .dMinus1 _ _ => .compute
  | .negD _ _ => .compute
  | .uA010000 _ _ => .compute
  | .uA010001 _ _ => .compute
  | .uA010010 _ _ => .compute
  | .dMinusA _ _ => .compute
  | .uA010100 _ _ => .compute
  | .dOrA _ _ => .compute
  | .uA010110 _ _ => .compute
  | .uA010111 _ _ => .compute
  | .uA011000 _ _ => .compute
  | .uA011001 _ _ => .compute
  | .uA011010 _ _ => .compute
  | .uA011011 _ _ => .compute
  | .uA011100 _ _ => .compute
  | .uA011101 _ _ => .compute
  | .uA011110 _ _ => .compute
  | .dPlus1 _ _ => .compute
  | .uA100000 _ _ => .compute
  | .uA100001 _ _ => .compute
  | .uA100010 _ _ => .compute
  | .uA100011 _ _ => .compute
  | .uA100100 _ _ => .compute
  | .uA100101 _ _ => .compute
  | .uA100110 _ _ => .compute
  | .uA100111 _ _ => .compute
  | .uA101000 _ _ => .compute
  | .uA101001 _ _ => .compute
  | .zero _ _ => .compute
  | .uA101011 _ _ => .compute
  | .uA101100 _ _ => .compute
  | .uA101101 _ _ => .compute
  | .uA101110 _ _ => .compute
  | .uA101111 _ _ => .compute
  | .compA _ _ => .compute
  | .notA _ _ => .compute
  | .aMinus1 _ _ => .compute
  | .negA _ _ => .compute
  | .uA110100 _ _ => .compute
  | .uA110101 _ _ => .compute
  | .uA110110 _ _ => .compute
  | .aPlus1 _ _ => .compute
  | .uA111000 _ _ => .compute
  | .uA111001 _ _ => .compute
  | .minusOne _ _ => .compute
  | .uA111011 _ _ => .compute
  | .uA111100 _ _ => .compute
  | .uA111101 _ _ => .compute
  | .uA111110 _ _ => .compute
  | .one _ _ => .compute
  | .dAndM _ _ => .compute
  | .uM000001 _ _ => .compute
  | .dPlusM _ _ => .compute
  | .uM000011 _ _ => .compute
  | .uM000100 _ _ => .compute
  | .uM000101 _ _ => .compute
  | .uM000110 _ _ => .compute
  | .mMinusD _ _ => .compute
  | .uM001000 _ _ => .compute
  | .uM001001 _ _ => .compute
  | .uM001010 _ _ => .compute
  | .uM001011 _ _ => .compute
  | .uM001100 _ _ => .compute
  | .uM001101 _ _ => .compute
  | .uM001110 _ _ => .compute
  | .uM001111 _ _ => .compute
  | .uM010000 _ _ => .compute
  | .uM010001 _ _ => .compute
  | .uM010010 _ _ => .compute
  | .dMinusM _ _ => .compute
  | .uM010100 _ _ => .compute
  | .dOrM _ _ => .compute
  | .uM010110 _ _ => .compute
  | .uM010111 _ _ => .compute
  | .uM011000 _ _ => .compute
  | .uM011001 _ _ => .compute
  | .uM011010 _ _ => .compute
  | .uM011011 _ _ => .compute
  | .uM011100 _ _ => .compute
  | .uM011101 _ _ => .compute
  | .uM011110 _ _ => .compute
  | .uM011111 _ _ => .compute
  | .uM100000 _ _ => .compute
  | .uM100001 _ _ => .compute
  | .uM100010 _ _ => .compute
  | .uM100011 _ _ => .compute
  | .uM100100 _ _ => .compute
  | .uM100101 _ _ => .compute
  | .uM100110 _ _ => .compute
  | .uM100111 _ _ => .compute
  | .uM101000 _ _ => .compute
  | .uM101001 _ _ => .compute
  | .uM101010 _ _ => .compute
  | .uM101011 _ _ => .compute
  | .uM101100 _ _ => .compute
  | .uM101101 _ _ => .compute
  | .uM101110 _ _ => .compute
  | .uM101111 _ _ => .compute
  | .compM _ _ => .compute
  | .notM _ _ => .compute
  | .mMinus1 _ _ => .compute
  | .negM _ _ => .compute
  | .uM110100 _ _ => .compute
  | .uM110101 _ _ => .compute
  | .uM110110 _ _ => .compute
  | .mPlus1 _ _ => .compute
  | .uM111000 _ _ => .compute
  | .uM111001 _ _ => .compute
  | .uM111010 _ _ => .compute
  | .uM111011 _ _ => .compute
  | .uM111100 _ _ => .compute
  | .uM111101 _ _ => .compute
  | .uM111110 _ _ => .compute
  | .uM111111 _ _ => .compute

/-- An instruction's word has the class of its constructor. -/
def Statement (i : Instr) : Prop := classify (encode i) = expected i

theorem addressValue (value : Word) : Statement (.addressValue value) := classify_constructAddress value
theorem dAndA (dest : Dest) (jump : Jump) : Statement (.dAndA dest jump) := classify_constructCompute _ _ _
theorem uA000001 (dest : Dest) (jump : Jump) : Statement (.uA000001 dest jump) := classify_constructCompute _ _ _
theorem dPlusA (dest : Dest) (jump : Jump) : Statement (.dPlusA dest jump) := classify_constructCompute _ _ _
theorem uA000011 (dest : Dest) (jump : Jump) : Statement (.uA000011 dest jump) := classify_constructCompute _ _ _
theorem uA000100 (dest : Dest) (jump : Jump) : Statement (.uA000100 dest jump) := classify_constructCompute _ _ _
theorem uA000101 (dest : Dest) (jump : Jump) : Statement (.uA000101 dest jump) := classify_constructCompute _ _ _
theorem uA000110 (dest : Dest) (jump : Jump) : Statement (.uA000110 dest jump) := classify_constructCompute _ _ _
theorem aMinusD (dest : Dest) (jump : Jump) : Statement (.aMinusD dest jump) := classify_constructCompute _ _ _
theorem uA001000 (dest : Dest) (jump : Jump) : Statement (.uA001000 dest jump) := classify_constructCompute _ _ _
theorem uA001001 (dest : Dest) (jump : Jump) : Statement (.uA001001 dest jump) := classify_constructCompute _ _ _
theorem uA001010 (dest : Dest) (jump : Jump) : Statement (.uA001010 dest jump) := classify_constructCompute _ _ _
theorem uA001011 (dest : Dest) (jump : Jump) : Statement (.uA001011 dest jump) := classify_constructCompute _ _ _
theorem compD (dest : Dest) (jump : Jump) : Statement (.compD dest jump) := classify_constructCompute _ _ _
theorem notD (dest : Dest) (jump : Jump) : Statement (.notD dest jump) := classify_constructCompute _ _ _
theorem dMinus1 (dest : Dest) (jump : Jump) : Statement (.dMinus1 dest jump) := classify_constructCompute _ _ _
theorem negD (dest : Dest) (jump : Jump) : Statement (.negD dest jump) := classify_constructCompute _ _ _
theorem uA010000 (dest : Dest) (jump : Jump) : Statement (.uA010000 dest jump) := classify_constructCompute _ _ _
theorem uA010001 (dest : Dest) (jump : Jump) : Statement (.uA010001 dest jump) := classify_constructCompute _ _ _
theorem uA010010 (dest : Dest) (jump : Jump) : Statement (.uA010010 dest jump) := classify_constructCompute _ _ _
theorem dMinusA (dest : Dest) (jump : Jump) : Statement (.dMinusA dest jump) := classify_constructCompute _ _ _
theorem uA010100 (dest : Dest) (jump : Jump) : Statement (.uA010100 dest jump) := classify_constructCompute _ _ _
theorem dOrA (dest : Dest) (jump : Jump) : Statement (.dOrA dest jump) := classify_constructCompute _ _ _
theorem uA010110 (dest : Dest) (jump : Jump) : Statement (.uA010110 dest jump) := classify_constructCompute _ _ _
theorem uA010111 (dest : Dest) (jump : Jump) : Statement (.uA010111 dest jump) := classify_constructCompute _ _ _
theorem uA011000 (dest : Dest) (jump : Jump) : Statement (.uA011000 dest jump) := classify_constructCompute _ _ _
theorem uA011001 (dest : Dest) (jump : Jump) : Statement (.uA011001 dest jump) := classify_constructCompute _ _ _
theorem uA011010 (dest : Dest) (jump : Jump) : Statement (.uA011010 dest jump) := classify_constructCompute _ _ _
theorem uA011011 (dest : Dest) (jump : Jump) : Statement (.uA011011 dest jump) := classify_constructCompute _ _ _
theorem uA011100 (dest : Dest) (jump : Jump) : Statement (.uA011100 dest jump) := classify_constructCompute _ _ _
theorem uA011101 (dest : Dest) (jump : Jump) : Statement (.uA011101 dest jump) := classify_constructCompute _ _ _
theorem uA011110 (dest : Dest) (jump : Jump) : Statement (.uA011110 dest jump) := classify_constructCompute _ _ _
theorem dPlus1 (dest : Dest) (jump : Jump) : Statement (.dPlus1 dest jump) := classify_constructCompute _ _ _
theorem uA100000 (dest : Dest) (jump : Jump) : Statement (.uA100000 dest jump) := classify_constructCompute _ _ _
theorem uA100001 (dest : Dest) (jump : Jump) : Statement (.uA100001 dest jump) := classify_constructCompute _ _ _
theorem uA100010 (dest : Dest) (jump : Jump) : Statement (.uA100010 dest jump) := classify_constructCompute _ _ _
theorem uA100011 (dest : Dest) (jump : Jump) : Statement (.uA100011 dest jump) := classify_constructCompute _ _ _
theorem uA100100 (dest : Dest) (jump : Jump) : Statement (.uA100100 dest jump) := classify_constructCompute _ _ _
theorem uA100101 (dest : Dest) (jump : Jump) : Statement (.uA100101 dest jump) := classify_constructCompute _ _ _
theorem uA100110 (dest : Dest) (jump : Jump) : Statement (.uA100110 dest jump) := classify_constructCompute _ _ _
theorem uA100111 (dest : Dest) (jump : Jump) : Statement (.uA100111 dest jump) := classify_constructCompute _ _ _
theorem uA101000 (dest : Dest) (jump : Jump) : Statement (.uA101000 dest jump) := classify_constructCompute _ _ _
theorem uA101001 (dest : Dest) (jump : Jump) : Statement (.uA101001 dest jump) := classify_constructCompute _ _ _
theorem zero (dest : Dest) (jump : Jump) : Statement (.zero dest jump) := classify_constructCompute _ _ _
theorem uA101011 (dest : Dest) (jump : Jump) : Statement (.uA101011 dest jump) := classify_constructCompute _ _ _
theorem uA101100 (dest : Dest) (jump : Jump) : Statement (.uA101100 dest jump) := classify_constructCompute _ _ _
theorem uA101101 (dest : Dest) (jump : Jump) : Statement (.uA101101 dest jump) := classify_constructCompute _ _ _
theorem uA101110 (dest : Dest) (jump : Jump) : Statement (.uA101110 dest jump) := classify_constructCompute _ _ _
theorem uA101111 (dest : Dest) (jump : Jump) : Statement (.uA101111 dest jump) := classify_constructCompute _ _ _
theorem compA (dest : Dest) (jump : Jump) : Statement (.compA dest jump) := classify_constructCompute _ _ _
theorem notA (dest : Dest) (jump : Jump) : Statement (.notA dest jump) := classify_constructCompute _ _ _
theorem aMinus1 (dest : Dest) (jump : Jump) : Statement (.aMinus1 dest jump) := classify_constructCompute _ _ _
theorem negA (dest : Dest) (jump : Jump) : Statement (.negA dest jump) := classify_constructCompute _ _ _
theorem uA110100 (dest : Dest) (jump : Jump) : Statement (.uA110100 dest jump) := classify_constructCompute _ _ _
theorem uA110101 (dest : Dest) (jump : Jump) : Statement (.uA110101 dest jump) := classify_constructCompute _ _ _
theorem uA110110 (dest : Dest) (jump : Jump) : Statement (.uA110110 dest jump) := classify_constructCompute _ _ _
theorem aPlus1 (dest : Dest) (jump : Jump) : Statement (.aPlus1 dest jump) := classify_constructCompute _ _ _
theorem uA111000 (dest : Dest) (jump : Jump) : Statement (.uA111000 dest jump) := classify_constructCompute _ _ _
theorem uA111001 (dest : Dest) (jump : Jump) : Statement (.uA111001 dest jump) := classify_constructCompute _ _ _
theorem minusOne (dest : Dest) (jump : Jump) : Statement (.minusOne dest jump) := classify_constructCompute _ _ _
theorem uA111011 (dest : Dest) (jump : Jump) : Statement (.uA111011 dest jump) := classify_constructCompute _ _ _
theorem uA111100 (dest : Dest) (jump : Jump) : Statement (.uA111100 dest jump) := classify_constructCompute _ _ _
theorem uA111101 (dest : Dest) (jump : Jump) : Statement (.uA111101 dest jump) := classify_constructCompute _ _ _
theorem uA111110 (dest : Dest) (jump : Jump) : Statement (.uA111110 dest jump) := classify_constructCompute _ _ _
theorem one (dest : Dest) (jump : Jump) : Statement (.one dest jump) := classify_constructCompute _ _ _
theorem dAndM (dest : Dest) (jump : Jump) : Statement (.dAndM dest jump) := classify_constructCompute _ _ _
theorem uM000001 (dest : Dest) (jump : Jump) : Statement (.uM000001 dest jump) := classify_constructCompute _ _ _
theorem dPlusM (dest : Dest) (jump : Jump) : Statement (.dPlusM dest jump) := classify_constructCompute _ _ _
theorem uM000011 (dest : Dest) (jump : Jump) : Statement (.uM000011 dest jump) := classify_constructCompute _ _ _
theorem uM000100 (dest : Dest) (jump : Jump) : Statement (.uM000100 dest jump) := classify_constructCompute _ _ _
theorem uM000101 (dest : Dest) (jump : Jump) : Statement (.uM000101 dest jump) := classify_constructCompute _ _ _
theorem uM000110 (dest : Dest) (jump : Jump) : Statement (.uM000110 dest jump) := classify_constructCompute _ _ _
theorem mMinusD (dest : Dest) (jump : Jump) : Statement (.mMinusD dest jump) := classify_constructCompute _ _ _
theorem uM001000 (dest : Dest) (jump : Jump) : Statement (.uM001000 dest jump) := classify_constructCompute _ _ _
theorem uM001001 (dest : Dest) (jump : Jump) : Statement (.uM001001 dest jump) := classify_constructCompute _ _ _
theorem uM001010 (dest : Dest) (jump : Jump) : Statement (.uM001010 dest jump) := classify_constructCompute _ _ _
theorem uM001011 (dest : Dest) (jump : Jump) : Statement (.uM001011 dest jump) := classify_constructCompute _ _ _
theorem uM001100 (dest : Dest) (jump : Jump) : Statement (.uM001100 dest jump) := classify_constructCompute _ _ _
theorem uM001101 (dest : Dest) (jump : Jump) : Statement (.uM001101 dest jump) := classify_constructCompute _ _ _
theorem uM001110 (dest : Dest) (jump : Jump) : Statement (.uM001110 dest jump) := classify_constructCompute _ _ _
theorem uM001111 (dest : Dest) (jump : Jump) : Statement (.uM001111 dest jump) := classify_constructCompute _ _ _
theorem uM010000 (dest : Dest) (jump : Jump) : Statement (.uM010000 dest jump) := classify_constructCompute _ _ _
theorem uM010001 (dest : Dest) (jump : Jump) : Statement (.uM010001 dest jump) := classify_constructCompute _ _ _
theorem uM010010 (dest : Dest) (jump : Jump) : Statement (.uM010010 dest jump) := classify_constructCompute _ _ _
theorem dMinusM (dest : Dest) (jump : Jump) : Statement (.dMinusM dest jump) := classify_constructCompute _ _ _
theorem uM010100 (dest : Dest) (jump : Jump) : Statement (.uM010100 dest jump) := classify_constructCompute _ _ _
theorem dOrM (dest : Dest) (jump : Jump) : Statement (.dOrM dest jump) := classify_constructCompute _ _ _
theorem uM010110 (dest : Dest) (jump : Jump) : Statement (.uM010110 dest jump) := classify_constructCompute _ _ _
theorem uM010111 (dest : Dest) (jump : Jump) : Statement (.uM010111 dest jump) := classify_constructCompute _ _ _
theorem uM011000 (dest : Dest) (jump : Jump) : Statement (.uM011000 dest jump) := classify_constructCompute _ _ _
theorem uM011001 (dest : Dest) (jump : Jump) : Statement (.uM011001 dest jump) := classify_constructCompute _ _ _
theorem uM011010 (dest : Dest) (jump : Jump) : Statement (.uM011010 dest jump) := classify_constructCompute _ _ _
theorem uM011011 (dest : Dest) (jump : Jump) : Statement (.uM011011 dest jump) := classify_constructCompute _ _ _
theorem uM011100 (dest : Dest) (jump : Jump) : Statement (.uM011100 dest jump) := classify_constructCompute _ _ _
theorem uM011101 (dest : Dest) (jump : Jump) : Statement (.uM011101 dest jump) := classify_constructCompute _ _ _
theorem uM011110 (dest : Dest) (jump : Jump) : Statement (.uM011110 dest jump) := classify_constructCompute _ _ _
theorem uM011111 (dest : Dest) (jump : Jump) : Statement (.uM011111 dest jump) := classify_constructCompute _ _ _
theorem uM100000 (dest : Dest) (jump : Jump) : Statement (.uM100000 dest jump) := classify_constructCompute _ _ _
theorem uM100001 (dest : Dest) (jump : Jump) : Statement (.uM100001 dest jump) := classify_constructCompute _ _ _
theorem uM100010 (dest : Dest) (jump : Jump) : Statement (.uM100010 dest jump) := classify_constructCompute _ _ _
theorem uM100011 (dest : Dest) (jump : Jump) : Statement (.uM100011 dest jump) := classify_constructCompute _ _ _
theorem uM100100 (dest : Dest) (jump : Jump) : Statement (.uM100100 dest jump) := classify_constructCompute _ _ _
theorem uM100101 (dest : Dest) (jump : Jump) : Statement (.uM100101 dest jump) := classify_constructCompute _ _ _
theorem uM100110 (dest : Dest) (jump : Jump) : Statement (.uM100110 dest jump) := classify_constructCompute _ _ _
theorem uM100111 (dest : Dest) (jump : Jump) : Statement (.uM100111 dest jump) := classify_constructCompute _ _ _
theorem uM101000 (dest : Dest) (jump : Jump) : Statement (.uM101000 dest jump) := classify_constructCompute _ _ _
theorem uM101001 (dest : Dest) (jump : Jump) : Statement (.uM101001 dest jump) := classify_constructCompute _ _ _
theorem uM101010 (dest : Dest) (jump : Jump) : Statement (.uM101010 dest jump) := classify_constructCompute _ _ _
theorem uM101011 (dest : Dest) (jump : Jump) : Statement (.uM101011 dest jump) := classify_constructCompute _ _ _
theorem uM101100 (dest : Dest) (jump : Jump) : Statement (.uM101100 dest jump) := classify_constructCompute _ _ _
theorem uM101101 (dest : Dest) (jump : Jump) : Statement (.uM101101 dest jump) := classify_constructCompute _ _ _
theorem uM101110 (dest : Dest) (jump : Jump) : Statement (.uM101110 dest jump) := classify_constructCompute _ _ _
theorem uM101111 (dest : Dest) (jump : Jump) : Statement (.uM101111 dest jump) := classify_constructCompute _ _ _
theorem compM (dest : Dest) (jump : Jump) : Statement (.compM dest jump) := classify_constructCompute _ _ _
theorem notM (dest : Dest) (jump : Jump) : Statement (.notM dest jump) := classify_constructCompute _ _ _
theorem mMinus1 (dest : Dest) (jump : Jump) : Statement (.mMinus1 dest jump) := classify_constructCompute _ _ _
theorem negM (dest : Dest) (jump : Jump) : Statement (.negM dest jump) := classify_constructCompute _ _ _
theorem uM110100 (dest : Dest) (jump : Jump) : Statement (.uM110100 dest jump) := classify_constructCompute _ _ _
theorem uM110101 (dest : Dest) (jump : Jump) : Statement (.uM110101 dest jump) := classify_constructCompute _ _ _
theorem uM110110 (dest : Dest) (jump : Jump) : Statement (.uM110110 dest jump) := classify_constructCompute _ _ _
theorem mPlus1 (dest : Dest) (jump : Jump) : Statement (.mPlus1 dest jump) := classify_constructCompute _ _ _
theorem uM111000 (dest : Dest) (jump : Jump) : Statement (.uM111000 dest jump) := classify_constructCompute _ _ _
theorem uM111001 (dest : Dest) (jump : Jump) : Statement (.uM111001 dest jump) := classify_constructCompute _ _ _
theorem uM111010 (dest : Dest) (jump : Jump) : Statement (.uM111010 dest jump) := classify_constructCompute _ _ _
theorem uM111011 (dest : Dest) (jump : Jump) : Statement (.uM111011 dest jump) := classify_constructCompute _ _ _
theorem uM111100 (dest : Dest) (jump : Jump) : Statement (.uM111100 dest jump) := classify_constructCompute _ _ _
theorem uM111101 (dest : Dest) (jump : Jump) : Statement (.uM111101 dest jump) := classify_constructCompute _ _ _
theorem uM111110 (dest : Dest) (jump : Jump) : Statement (.uM111110 dest jump) := classify_constructCompute _ _ _
theorem uM111111 (dest : Dest) (jump : Jump) : Statement (.uM111111 dest jump) := classify_constructCompute _ _ _
theorem illegal100 (low : BitVec 13) : Statement (.illegal100 low) := classify_invalid100 low
theorem illegal101 (low : BitVec 13) : Statement (.illegal101 low) := classify_invalid101 low
theorem illegal110 (low : BitVec 13) : Statement (.illegal110 low) := classify_invalid110 low

end Sys2Proof.Laws.EncodingClass
end

