-- ==== Sys2Proof/Laws/Step.lean ====
section
/-! SUPPORT. All that a step can do, said once (60_exceptions.md R230); later proofs cite `step_cases` and unfold no meaning. -/

namespace Sys2Proof.Machine

/-- The state a compute word leaves when the cell it touches exists. -/
def State.computed (s : State) (w : Word) : State :=
  { A := if (destOf w).toA then alu (controlOf w) s.D (s.yOf (modeOf w)) else s.A
    D := if (destOf w).toD then alu (controlOf w) s.D (s.yOf (modeOf w)) else s.D
    pc := if jumpCond (jumpOf w) (alu (controlOf w) s.D (s.yOf (modeOf w))) then s.ea else s.pc + 1
    ram := s.storedRam (destOf w).toM s.ea (alu (controlOf w) s.D (s.yOf (modeOf w)))
    displayChanged := s.storedDisplay (destOf w).toM s.ea (alu (controlOf w) s.D (s.yOf (modeOf w)))
    status := s.status
    prog := s.prog
    params := s.params
    draws := s.draws }

/-- The word touches data memory (R112). -/
def touches (w : Word) : Prop := modeOf w = .mMode ∨ (destOf w).toM = true

/-- The word of a compute class rebuilt from its fields. -/
theorem word_of_fields {w : Word} (h : classify w = .compute) :
    constructCompute (destOf w).bits (comp7Join (modeOf w) (controlOf w)) (jumpOf w).bits = w := by
  rw [destOf, jumpOf, Dest.bits_ofBits, Jump.bits_ofBits]
  have h7 : comp7Join (modeOf w) (controlOf w) = comp7Of w := by
    have e : ∀ i, i < 7 → (comp7Join (modeOf w) (controlOf w)).getLsbD i = (comp7Of w).getLsbD i := by
      intro i hi
      have : ∀ b : BitVec 1, (b ++ controlOf w).getLsbD i = if i < 6 then w.getLsbD (6 + i) else b.getLsbD (i - 6) := by
        intro b
        rw [BitVec.getLsbD_append, controlOf, BitVec.getLsbD_extractLsb']
        by_cases h6 : i < 6 <;> simp [h6]
      rw [comp7Of, BitVec.getLsbD_extractLsb', modeOf]
      by_cases h6 : i < 6
      · cases h12 : w.getLsbD 12 <;> simp only [comp7Join, Bool.false_eq_true, if_false, if_true, this, h6] <;> simp [hi]
      · obtain rfl : i = 6 := by omega
        cases h12 : w.getLsbD 12 <;> simp only [comp7Join, Bool.false_eq_true, if_false, if_true, this] <;> simp
    exact BitVec.eq_of_getLsbD_eq e
  rw [h7]
  apply BitVec.eq_of_getLsbD_eq
  intro i hi
  rw [getLsbD_constructCompute _ _ _ _ hi]
  by_cases h13 : 13 ≤ i
  · rw [if_pos h13]
    unfold classify at h
    generalize h15' : w.getLsbD 15 = b15 at *
    generalize h14' : w.getLsbD 14 = b14 at *
    generalize h13' : w.getLsbD 13 = b13 at *
    cases b15 <;> cases b14 <;> cases b13 <;> simp only [reduceCtorEq] at h
    interval_cases i
    · exact h13'.symm
    · exact h14'.symm
    · exact h15'.symm
  · rw [if_neg h13]
    by_cases h6 : 6 ≤ i
    · rw [if_pos h6, comp7Of, BitVec.getLsbD_extractLsb']
      simp [show i - 6 < 7 by omega, show 6 + (i - 6) = i by omega]
    · rw [if_neg h6]
      by_cases h3 : 3 ≤ i
      · rw [if_pos h3, destBitsOf, BitVec.getLsbD_extractLsb']
        simp [show i - 3 < 3 by omega, show 3 + (i - 3) = i by omega]
      · rw [if_neg h3, jumpBitsOf, BitVec.getLsbD_extractLsb']
        simp [show i < 3 by omega]

/-- exec of a compute word whose cell exists. -/
theorem exec_compute_ok {w : Word} (h : classify w = .compute) {s : State} (ha : touches w → s.ea < s.params.memWords) :
    exec (decode w) s = .next (s.computed w) := by
  rw [exec_decode_compute h, computeTick_ok _ _ ha]
  rfl

/-- exec of a compute word whose cell does not exist (R222). -/
theorem exec_compute_bad {w : Word} (h : classify w = .compute) {s : State} (ht : touches w)
    (ha : s.params.memWords ≤ s.ea) :
    exec (decode w) s = .next (s.takeFatal (.addressOutOfRange s.pc w s.ea)) := by
  rw [exec_decode_compute h, computeTick_bad _ _ ht ha, word_of_fields h]

/-- What a step that answers a next state did: status Running, and one of the five outcomes of R230. -/
inductive StepDid (s t : State) : Prop where
  | noWord (h : s.prog.length ≤ s.pc) (ht : t = s.takeFatal (.pcOutOfRange s.pc))
  | address (w : Word) (hf : s.fetch = some w) (hc : classify w = .address)
      (ht : t = s.advance.setA (constructAddress w))
  | compute (w : Word) (hf : s.fetch = some w) (hc : classify w = .compute)
      (ha : touches w → s.ea < s.params.memWords) (ht : t = s.computed w)
  | badAddress (w : Word) (hf : s.fetch = some w) (hc : classify w = .compute) (hw : touches w)
      (ha : s.params.memWords ≤ s.ea) (ht : t = s.takeFatal (.addressOutOfRange s.pc w s.ea))
  | invalid (w : Word) (hf : s.fetch = some w) (hc : classify w = .invalid)
      (ht : t = s.takeFatal (.decodeError s.pc w))

/-- The outcome of a step from status Running. -/
theorem step_running {s : State} (hs : s.status = .running) : ∃ t, step s = .next t ∧ StepDid s t := by
  unfold step
  rw [hs]
  cases hf : s.fetch with
  | none =>
    refine ⟨_, rfl, .noWord ?_ rfl⟩
    rwa [State.fetch, List.getElem?_eq_none_iff] at hf
  | some w =>
    cases hc : classify w with
    | address => exact ⟨_, exec_decode_address hc s, .address w hf hc rfl⟩
    | invalid => exact ⟨_, exec_decode_invalid hc s, .invalid w hf hc rfl⟩
    | compute =>
      by_cases ht : touches w
      · by_cases ha : s.ea < s.params.memWords
        · exact ⟨_, exec_compute_ok hc (fun _ => ha), .compute w hf hc (fun _ => ha) rfl⟩
        · exact ⟨_, exec_compute_bad hc ht (Nat.not_lt.mp ha), .badAddress w hf hc ht (Nat.not_lt.mp ha) rfl⟩
      · exact ⟨_, exec_compute_ok hc (fun h => absurd h ht), .compute w hf hc (fun h => absurd h ht) rfl⟩

/-- The outcome of a step from status Faulted (R226). -/
theorem step_faulted {s : State} {e : FatalError} (hs : s.status = .faulted e) : step s = .fault (.faulted e) := by
  unfold step; rw [hs]

/-- All a step can do when it answers a next state. -/
theorem step_cases {s t : State} (h : step s = .next t) : s.status = .running ∧ StepDid s t := by
  cases hs : s.status with
  | faulted e => rw [step_faulted hs] at h; cases h
  | running =>
    obtain ⟨t', ht', hd⟩ := step_running hs
    rw [h] at ht'
    cases ht'
    exact ⟨rfl, hd⟩

end Sys2Proof.Machine
end

