-- ==== Sys2Proof/Tests/Slice0.lean ====
section
/-! SUPPORT. The model's own tests. Expected values are the spec's: the encodings of opcode_table.json and the vectors of
95_test_vectors.md (S1 to S9, 2.1 to 2.11), never the model's own answers. Then one witness for each statement with hypotheses. -/

open Sys2Proof Sys2Proof.Machine

namespace Sys2Proof.Tests

/-! ### Helpers -/

/-- A core with the given A, D and memory, about to run the word `w` at index `pc`. -/
def at0 (A D : Word) (pc : Nat) (ram : Memory) (w : Word) : State :=
  ({ State.reset with A := A, D := D, pc := pc, ram := ram } : State).withFetchWord 16 w.toNat

/-- A core right after construction with the array `prog`. -/
def booted (prog : List Word) : State := { State.reset with prog := prog }

/-- What a tick that succeeds shows of the state it leaves. -/
structure Seen where
  A : Word
  D : Word
  pc : Nat
  ram : Memory
  displayChanged : Bool
  deriving DecidableEq, Repr

/-- One tick. Nothing after an error. -/
def seen (s : State) : Option Seen :=
  match step s with
  | .next t => if t.status = .running then some ⟨t.A, t.D, t.pc, t.ram, t.displayChanged⟩ else none
  | _ => none

/-- The new D after one tick of `w`. -/
def newD (A D : Word) (ram : Memory) (w : Word) : Word :=
  match step (at0 A D 0 ram w) with
  | .next t => t.D
  | _ => 0xDEAD#16

/-- What an error leaves visible (the pc is unspecified). -/
structure Failed where
  error : Option FatalError
  A : Word
  D : Word
  ram : Memory
  displayChanged : Bool
  deriving DecidableEq, Repr

/-- One tick that ends in an error. -/
def failed (s : State) : Option Failed :=
  match step s with
  | .next t => some ⟨t.status.error?, t.A, t.D, t.ram, t.displayChanged⟩
  | _ => none

/-! ### WellFormed: each check refuses an ill-formed term, and admits the boundary -/

theorem test_wf_refuses_bit15 : ¬ WellFormed (.addressValue 0x8000#16) := by decide
theorem test_wf_refuses_all_ones : ¬ WellFormed (.addressValue 0xFFFF#16) := by decide
theorem test_wf_admits_the_largest : WellFormed (.addressValue 0x7FFF#16) := by decide

/-! ### Classification (2.1) -/

theorem test_classify :
    classify 0x0000#16 = .address ∧
    classify 0x7FFF#16 = .address ∧
    classify 0x4000#16 = .address ∧
    classify 0x1FFF#16 = .address ∧
    classify 0x8000#16 = .invalid ∧
    classify 0x9FFF#16 = .invalid ∧
    classify 0xA000#16 = .invalid ∧
    classify 0xBFFF#16 = .invalid ∧
    classify 0xC000#16 = .invalid ∧
    classify 0xDFFF#16 = .invalid ∧
    classify 0xE000#16 = .compute ∧
    classify 0xFFFF#16 = .compute ∧
    classify 0xEA80#16 = .compute := by decide

/-! ### Decoding: a word for every constructor, written out from its row's encoding in opcode_table.json -/

theorem test_decode_address :
    decode 0b0000000000000000#16 = .addressValue 0#16 ∧ decode 0b0111111111111111#16 = .addressValue 32767#16 ∧
    decode 0b0101010101010101#16 = .addressValue 0x5555#16 := by decide

theorem test_decode_invalid :
    decode 0b1000000000000001#16 = .illegal100 1#13 ∧ decode 0b1011111111111111#16 = .illegal101 0x1FFF#13 ∧
    decode 0b1101000000000000#16 = .illegal110 0x1000#13 := by decide

theorem test_decode_aMode_0 :
    decode 0b1110000000001010#16 = .dAndA ⟨true, false, false⟩ .jeq ∧
    decode 0b1110000001100111#16 = .uA000001 ⟨false, false, true⟩ .jmp ∧
    decode 0b1110000010111100#16 = .dPlusA ⟨true, true, true⟩ .jlt ∧
    decode 0b1110000011010001#16 = .uA000011 ⟨false, true, false⟩ .jgt ∧
    decode 0b1110000100101110#16 = .uA000100 ⟨true, false, true⟩ .jle ∧
    decode 0b1110000101000011#16 = .uA000101 ⟨false, false, false⟩ .jge ∧
    decode 0b1110000110011000#16 = .uA000110 ⟨true, true, false⟩ .never ∧
    decode 0b1110000111110101#16 = .aMinusD ⟨false, true, true⟩ .jne ∧
    decode 0b1110001000001010#16 = .uA001000 ⟨true, false, false⟩ .jeq ∧
    decode 0b1110001001100111#16 = .uA001001 ⟨false, false, true⟩ .jmp ∧
    decode 0b1110001010111100#16 = .uA001010 ⟨true, true, true⟩ .jlt ∧
    decode 0b1110001011010001#16 = .uA001011 ⟨false, true, false⟩ .jgt ∧
    decode 0b1110001100101110#16 = .compD ⟨true, false, true⟩ .jle ∧
    decode 0b1110001101000011#16 = .notD ⟨false, false, false⟩ .jge ∧
    decode 0b1110001110011000#16 = .dMinus1 ⟨true, true, false⟩ .never ∧
    decode 0b1110001111110101#16 = .negD ⟨false, true, true⟩ .jne := by
  refine ⟨?_, ?_, ?_, ?_, ?_, ?_, ?_, ?_, ?_, ?_, ?_, ?_, ?_, ?_, ?_, ?_⟩ <;> rfl

theorem test_decode_aMode_16 :
    decode 0b1110010000010011#16 = .uA010000 ⟨false, true, false⟩ .jge ∧
    decode 0b1110010001101000#16 = .uA010001 ⟨true, false, true⟩ .never ∧
    decode 0b1110010010000101#16 = .uA010010 ⟨false, false, false⟩ .jne ∧
    decode 0b1110010011011010#16 = .dMinusA ⟨true, true, false⟩ .jeq ∧
    decode 0b1110010100110111#16 = .uA010100 ⟨false, true, true⟩ .jmp ∧
    decode 0b1110010101001100#16 = .dOrA ⟨true, false, false⟩ .jlt ∧
    decode 0b1110010110100001#16 = .uA010110 ⟨false, false, true⟩ .jgt ∧
    decode 0b1110010111111110#16 = .uA010111 ⟨true, true, true⟩ .jle ∧
    decode 0b1110011000010011#16 = .uA011000 ⟨false, true, false⟩ .jge ∧
    decode 0b1110011001101000#16 = .uA011001 ⟨true, false, true⟩ .never ∧
    decode 0b1110011010000101#16 = .uA011010 ⟨false, false, false⟩ .jne ∧
    decode 0b1110011011011010#16 = .uA011011 ⟨true, true, false⟩ .jeq ∧
    decode 0b1110011100110111#16 = .uA011100 ⟨false, true, true⟩ .jmp ∧
    decode 0b1110011101001100#16 = .uA011101 ⟨true, false, false⟩ .jlt ∧
    decode 0b1110011110100001#16 = .uA011110 ⟨false, false, true⟩ .jgt ∧
    decode 0b1110011111111110#16 = .dPlus1 ⟨true, true, true⟩ .jle := by
  refine ⟨?_, ?_, ?_, ?_, ?_, ?_, ?_, ?_, ?_, ?_, ?_, ?_, ?_, ?_, ?_, ?_⟩ <;> rfl

theorem test_decode_aMode_32 :
    decode 0b1110100000011100#16 = .uA100000 ⟨true, true, false⟩ .jlt ∧
    decode 0b1110100001110001#16 = .uA100001 ⟨false, true, true⟩ .jgt ∧
    decode 0b1110100010001110#16 = .uA100010 ⟨true, false, false⟩ .jle ∧
    decode 0b1110100011100011#16 = .uA100011 ⟨false, false, true⟩ .jge ∧
    decode 0b1110100100111000#16 = .uA100100 ⟨true, true, true⟩ .never ∧
    decode 0b1110100101010101#16 = .uA100101 ⟨false, true, false⟩ .jne ∧
    decode 0b1110100110101010#16 = .uA100110 ⟨true, false, true⟩ .jeq ∧
    decode 0b1110100111000111#16 = .uA100111 ⟨false, false, false⟩ .jmp ∧
    decode 0b1110101000011100#16 = .uA101000 ⟨true, true, false⟩ .jlt ∧
    decode 0b1110101001110001#16 = .uA101001 ⟨false, true, true⟩ .jgt ∧
    decode 0b1110101010001110#16 = .zero ⟨true, false, false⟩ .jle ∧
    decode 0b1110101011100011#16 = .uA101011 ⟨false, false, true⟩ .jge ∧
    decode 0b1110101100111000#16 = .uA101100 ⟨true, true, true⟩ .never ∧
    decode 0b1110101101010101#16 = .uA101101 ⟨false, true, false⟩ .jne ∧
    decode 0b1110101110101010#16 = .uA101110 ⟨true, false, true⟩ .jeq ∧
    decode 0b1110101111000111#16 = .uA101111 ⟨false, false, false⟩ .jmp := by
  refine ⟨?_, ?_, ?_, ?_, ?_, ?_, ?_, ?_, ?_, ?_, ?_, ?_, ?_, ?_, ?_, ?_⟩ <;> rfl

theorem test_decode_aMode_48 :
    decode 0b1110110000100101#16 = .compA ⟨false, false, true⟩ .jne ∧
    decode 0b1110110001111010#16 = .notA ⟨true, true, true⟩ .jeq ∧
    decode 0b1110110010010111#16 = .aMinus1 ⟨false, true, false⟩ .jmp ∧
    decode 0b1110110011101100#16 = .negA ⟨true, false, true⟩ .jlt ∧
    decode 0b1110110100000001#16 = .uA110100 ⟨false, false, false⟩ .jgt ∧
    decode 0b1110110101011110#16 = .uA110101 ⟨true, true, false⟩ .jle ∧
    decode 0b1110110110110011#16 = .uA110110 ⟨false, true, true⟩ .jge ∧
    decode 0b1110110111001000#16 = .aPlus1 ⟨true, false, false⟩ .never ∧
    decode 0b1110111000100101#16 = .uA111000 ⟨false, false, true⟩ .jne ∧
    decode 0b1110111001111010#16 = .uA111001 ⟨true, true, true⟩ .jeq ∧
    decode 0b1110111010010111#16 = .minusOne ⟨false, true, false⟩ .jmp ∧
    decode 0b1110111011101100#16 = .uA111011 ⟨true, false, true⟩ .jlt ∧
    decode 0b1110111100000001#16 = .uA111100 ⟨false, false, false⟩ .jgt ∧
    decode 0b1110111101011110#16 = .uA111101 ⟨true, true, false⟩ .jle ∧
    decode 0b1110111110110011#16 = .uA111110 ⟨false, true, true⟩ .jge ∧
    decode 0b1110111111001000#16 = .one ⟨true, false, false⟩ .never := by
  refine ⟨?_, ?_, ?_, ?_, ?_, ?_, ?_, ?_, ?_, ?_, ?_, ?_, ?_, ?_, ?_, ?_⟩ <;> rfl

theorem test_decode_mMode_0 :
    decode 0b1111000000101110#16 = .dAndM ⟨true, false, true⟩ .jle ∧
    decode 0b1111000001000011#16 = .uM000001 ⟨false, false, false⟩ .jge ∧
    decode 0b1111000010011000#16 = .dPlusM ⟨true, true, false⟩ .never ∧
    decode 0b1111000011110101#16 = .uM000011 ⟨false, true, true⟩ .jne ∧
    decode 0b1111000100001010#16 = .uM000100 ⟨true, false, false⟩ .jeq ∧
    decode 0b1111000101100111#16 = .uM000101 ⟨false, false, true⟩ .jmp ∧
    decode 0b1111000110111100#16 = .uM000110 ⟨true, true, true⟩ .jlt ∧
    decode 0b1111000111010001#16 = .mMinusD ⟨false, true, false⟩ .jgt ∧
    decode 0b1111001000101110#16 = .uM001000 ⟨true, false, true⟩ .jle ∧
    decode 0b1111001001000011#16 = .uM001001 ⟨false, false, false⟩ .jge ∧
    decode 0b1111001010011000#16 = .uM001010 ⟨true, true, false⟩ .never ∧
    decode 0b1111001011110101#16 = .uM001011 ⟨false, true, true⟩ .jne ∧
    decode 0b1111001100001010#16 = .uM001100 ⟨true, false, false⟩ .jeq ∧
    decode 0b1111001101100111#16 = .uM001101 ⟨false, false, true⟩ .jmp ∧
    decode 0b1111001110111100#16 = .uM001110 ⟨true, true, true⟩ .jlt ∧
    decode 0b1111001111010001#16 = .uM001111 ⟨false, true, false⟩ .jgt := by
  refine ⟨?_, ?_, ?_, ?_, ?_, ?_, ?_, ?_, ?_, ?_, ?_, ?_, ?_, ?_, ?_, ?_⟩ <;> rfl

theorem test_decode_mMode_16 :
    decode 0b1111010000110111#16 = .uM010000 ⟨false, true, true⟩ .jmp ∧
    decode 0b1111010001001100#16 = .uM010001 ⟨true, false, false⟩ .jlt ∧
    decode 0b1111010010100001#16 = .uM010010 ⟨false, false, true⟩ .jgt ∧
    decode 0b1111010011111110#16 = .dMinusM ⟨true, true, true⟩ .jle ∧
    decode 0b1111010100010011#16 = .uM010100 ⟨false, true, false⟩ .jge ∧
    decode 0b1111010101101000#16 = .dOrM ⟨true, false, true⟩ .never ∧
    decode 0b1111010110000101#16 = .uM010110 ⟨false, false, false⟩ .jne ∧
    decode 0b1111010111011010#16 = .uM010111 ⟨true, true, false⟩ .jeq ∧
    decode 0b1111011000110111#16 = .uM011000 ⟨false, true, true⟩ .jmp ∧
    decode 0b1111011001001100#16 = .uM011001 ⟨true, false, false⟩ .jlt ∧
    decode 0b1111011010100001#16 = .uM011010 ⟨false, false, true⟩ .jgt ∧
    decode 0b1111011011111110#16 = .uM011011 ⟨true, true, true⟩ .jle ∧
    decode 0b1111011100010011#16 = .uM011100 ⟨false, true, false⟩ .jge ∧
    decode 0b1111011101101000#16 = .uM011101 ⟨true, false, true⟩ .never ∧
    decode 0b1111011110000101#16 = .uM011110 ⟨false, false, false⟩ .jne ∧
    decode 0b1111011111011010#16 = .uM011111 ⟨true, true, false⟩ .jeq := by
  refine ⟨?_, ?_, ?_, ?_, ?_, ?_, ?_, ?_, ?_, ?_, ?_, ?_, ?_, ?_, ?_, ?_⟩ <;> rfl

theorem test_decode_mMode_32 :
    decode 0b1111100000111000#16 = .uM100000 ⟨true, true, true⟩ .never ∧
    decode 0b1111100001010101#16 = .uM100001 ⟨false, true, false⟩ .jne ∧
    decode 0b1111100010101010#16 = .uM100010 ⟨true, false, true⟩ .jeq ∧
    decode 0b1111100011000111#16 = .uM100011 ⟨false, false, false⟩ .jmp ∧
    decode 0b1111100100011100#16 = .uM100100 ⟨true, true, false⟩ .jlt ∧
    decode 0b1111100101110001#16 = .uM100101 ⟨false, true, true⟩ .jgt ∧
    decode 0b1111100110001110#16 = .uM100110 ⟨true, false, false⟩ .jle ∧
    decode 0b1111100111100011#16 = .uM100111 ⟨false, false, true⟩ .jge ∧
    decode 0b1111101000111000#16 = .uM101000 ⟨true, true, true⟩ .never ∧
    decode 0b1111101001010101#16 = .uM101001 ⟨false, true, false⟩ .jne ∧
    decode 0b1111101010101010#16 = .uM101010 ⟨true, false, true⟩ .jeq ∧
    decode 0b1111101011000111#16 = .uM101011 ⟨false, false, false⟩ .jmp ∧
    decode 0b1111101100011100#16 = .uM101100 ⟨true, true, false⟩ .jlt ∧
    decode 0b1111101101110001#16 = .uM101101 ⟨false, true, true⟩ .jgt ∧
    decode 0b1111101110001110#16 = .uM101110 ⟨true, false, false⟩ .jle ∧
    decode 0b1111101111100011#16 = .uM101111 ⟨false, false, true⟩ .jge := by
  refine ⟨?_, ?_, ?_, ?_, ?_, ?_, ?_, ?_, ?_, ?_, ?_, ?_, ?_, ?_, ?_, ?_⟩ <;> rfl

theorem test_decode_mMode_48 :
    decode 0b1111110000000001#16 = .compM ⟨false, false, false⟩ .jgt ∧
    decode 0b1111110001011110#16 = .notM ⟨true, true, false⟩ .jle ∧
    decode 0b1111110010110011#16 = .mMinus1 ⟨false, true, true⟩ .jge ∧
    decode 0b1111110011001000#16 = .negM ⟨true, false, false⟩ .never ∧
    decode 0b1111110100100101#16 = .uM110100 ⟨false, false, true⟩ .jne ∧
    decode 0b1111110101111010#16 = .uM110101 ⟨true, true, true⟩ .jeq ∧
    decode 0b1111110110010111#16 = .uM110110 ⟨false, true, false⟩ .jmp ∧
    decode 0b1111110111101100#16 = .mPlus1 ⟨true, false, true⟩ .jlt ∧
    decode 0b1111111000000001#16 = .uM111000 ⟨false, false, false⟩ .jgt ∧
    decode 0b1111111001011110#16 = .uM111001 ⟨true, true, false⟩ .jle ∧
    decode 0b1111111010110011#16 = .uM111010 ⟨false, true, true⟩ .jge ∧
    decode 0b1111111011001000#16 = .uM111011 ⟨true, false, false⟩ .never ∧
    decode 0b1111111100100101#16 = .uM111100 ⟨false, false, true⟩ .jne ∧
    decode 0b1111111101111010#16 = .uM111101 ⟨true, true, true⟩ .jeq ∧
    decode 0b1111111110010111#16 = .uM111110 ⟨false, true, false⟩ .jmp ∧
    decode 0b1111111111101100#16 = .uM111111 ⟨true, false, true⟩ .jlt := by
  refine ⟨?_, ?_, ?_, ?_, ?_, ?_, ?_, ?_, ?_, ?_, ?_, ?_, ?_, ?_, ?_, ?_⟩ <;> rfl

/-! ### The opcode table's own numbering, and the encoder on words of the spec (2.2, 2.4) -/

theorem test_decodeTableWord :
    decodeTableWord 16 0xEC10 = some (.compA ⟨false, true, false⟩ .never) ∧
    decodeTableWord 16 0x8000 = some (.illegal100 0#13) ∧ decodeTableWord 16 0x0005 = some (.addressValue 5#16) := by decide

theorem test_encode :
    encode (.compA ⟨false, true, false⟩ .never) = 0xEC10#16 ∧ encode (.uM111111 ⟨true, true, true⟩ .jmp) = 0xFFFF#16 ∧
    encode (.uA111110 ⟨true, false, false⟩ .never) = 0xEF88#16 ∧ encode (.illegal110 0x0123#13) = 0xC123#16 := by decide

theorem test_construct_address :
    constructAddress 0#16 = 0x0000#16 ∧ constructAddress 32767#16 = 0x7FFF#16 ∧ constructAddress 0xFFFF#16 = 0x7FFF#16 ∧
    constructAddress 0x8000#16 = 0x0000#16 ∧ constructAddress 0x8005#16 = 0x0005#16 := by decide

theorem test_construct_compute :
    constructCompute 0#3 0b0101010#7 0#3 = 0xEA80#16 ∧ constructCompute 0b010#3 0b0110000#7 0#3 = 0xEC10#16 ∧
    constructCompute 0b111#3 0b1111111#7 0b111#3 = 0xFFFF#16 ∧ constructCompute 0b001#3 0b0111110#7 0#3 = 0xEF88#16 := by decide

theorem test_fields :
    modeOf 0xF0B9#16 = .mMode ∧ controlOf 0xF0B9#16 = 0b000010#6 ∧ comp7Of 0xF0B9#16 = 0b1000010#7 ∧
    destBitsOf 0xF0B9#16 = 0b111#3 ∧ jumpBitsOf 0xF0B9#16 = 0b001#3 := by decide

/-- R59 on the fields of 2.2, and a value field. -/
theorem test_read_back :
    fieldsOf 0xF0B9#16 = (0b111#3, 0b1000010#7, 0b001#3) ∧ valueOf 0x7FFF#16 = 32767#15 ∧
    valueOf (constructAddress 0x8005#16) = 5#15 := by decide

/-! ### The address instruction (2.3) -/

theorem test_address :
    seen (at0 0x1234#16 7#16 4 [] 0x0000#16) = some ⟨0x0000#16, 7#16, 5, [], false⟩ ∧
    seen (at0 0x1234#16 7#16 4 [] 0x4000#16) = some ⟨0x4000#16, 7#16, 5, [], false⟩ ∧
    seen (at0 0x1234#16 7#16 4 [] 0x7FFF#16) = some ⟨0x7FFF#16, 7#16, 5, [], false⟩ := by decide

/-! ### The ALU table (2.5): the four operand pairs P1 to P4, eight patterns each -/

theorem test_alu_0 :
    [alu 0b000000#6 0x0011#16 0x0003#16, alu 0b000000#6 0x0000#16 0x0000#16, alu 0b000000#6 0x7FFF#16 0x0001#16, alu 0b000000#6 0x8000#16 0xFFFF#16] = [0x0001#16, 0x0000#16, 0x0001#16, 0x8000#16] ∧
    [alu 0b000001#6 0x0011#16 0x0003#16, alu 0b000001#6 0x0000#16 0x0000#16, alu 0b000001#6 0x7FFF#16 0x0001#16, alu 0b000001#6 0x8000#16 0xFFFF#16] = [0xFFFE#16, 0xFFFF#16, 0xFFFE#16, 0x7FFF#16] ∧
    [alu 0b000010#6 0x0011#16 0x0003#16, alu 0b000010#6 0x0000#16 0x0000#16, alu 0b000010#6 0x7FFF#16 0x0001#16, alu 0b000010#6 0x8000#16 0xFFFF#16] = [0x0014#16, 0x0000#16, 0x8000#16, 0x7FFF#16] ∧
    [alu 0b000011#6 0x0011#16 0x0003#16, alu 0b000011#6 0x0000#16 0x0000#16, alu 0b000011#6 0x7FFF#16 0x0001#16, alu 0b000011#6 0x8000#16 0xFFFF#16] = [0xFFEB#16, 0xFFFF#16, 0x7FFF#16, 0x8000#16] ∧
    [alu 0b000100#6 0x0011#16 0x0003#16, alu 0b000100#6 0x0000#16 0x0000#16, alu 0b000100#6 0x7FFF#16 0x0001#16, alu 0b000100#6 0x8000#16 0xFFFF#16] = [0x0010#16, 0x0000#16, 0x7FFE#16, 0x0000#16] ∧
    [alu 0b000101#6 0x0011#16 0x0003#16, alu 0b000101#6 0x0000#16 0x0000#16, alu 0b000101#6 0x7FFF#16 0x0001#16, alu 0b000101#6 0x8000#16 0xFFFF#16] = [0xFFEF#16, 0xFFFF#16, 0x8001#16, 0xFFFF#16] ∧
    [alu 0b000110#6 0x0011#16 0x0003#16, alu 0b000110#6 0x0000#16 0x0000#16, alu 0b000110#6 0x7FFF#16 0x0001#16, alu 0b000110#6 0x8000#16 0xFFFF#16] = [0x000D#16, 0xFFFF#16, 0x7FFD#16, 0x8000#16] ∧
    [alu 0b000111#6 0x0011#16 0x0003#16, alu 0b000111#6 0x0000#16 0x0000#16, alu 0b000111#6 0x7FFF#16 0x0001#16, alu 0b000111#6 0x8000#16 0xFFFF#16] = [0xFFF2#16, 0x0000#16, 0x8002#16, 0x7FFF#16] := by decide

theorem test_alu_8 :
    [alu 0b001000#6 0x0011#16 0x0003#16, alu 0b001000#6 0x0000#16 0x0000#16, alu 0b001000#6 0x7FFF#16 0x0001#16, alu 0b001000#6 0x8000#16 0xFFFF#16] = [0x0000#16, 0x0000#16, 0x0000#16, 0x0000#16] ∧
    [alu 0b001001#6 0x0011#16 0x0003#16, alu 0b001001#6 0x0000#16 0x0000#16, alu 0b001001#6 0x7FFF#16 0x0001#16, alu 0b001001#6 0x8000#16 0xFFFF#16] = [0xFFFF#16, 0xFFFF#16, 0xFFFF#16, 0xFFFF#16] ∧
    [alu 0b001010#6 0x0011#16 0x0003#16, alu 0b001010#6 0x0000#16 0x0000#16, alu 0b001010#6 0x7FFF#16 0x0001#16, alu 0b001010#6 0x8000#16 0xFFFF#16] = [0x0011#16, 0x0000#16, 0x7FFF#16, 0x8000#16] ∧
    [alu 0b001011#6 0x0011#16 0x0003#16, alu 0b001011#6 0x0000#16 0x0000#16, alu 0b001011#6 0x7FFF#16 0x0001#16, alu 0b001011#6 0x8000#16 0xFFFF#16] = [0xFFEE#16, 0xFFFF#16, 0x8000#16, 0x7FFF#16] ∧
    [alu 0b001100#6 0x0011#16 0x0003#16, alu 0b001100#6 0x0000#16 0x0000#16, alu 0b001100#6 0x7FFF#16 0x0001#16, alu 0b001100#6 0x8000#16 0xFFFF#16] = [0x0011#16, 0x0000#16, 0x7FFF#16, 0x8000#16] ∧
    [alu 0b001101#6 0x0011#16 0x0003#16, alu 0b001101#6 0x0000#16 0x0000#16, alu 0b001101#6 0x7FFF#16 0x0001#16, alu 0b001101#6 0x8000#16 0xFFFF#16] = [0xFFEE#16, 0xFFFF#16, 0x8000#16, 0x7FFF#16] ∧
    [alu 0b001110#6 0x0011#16 0x0003#16, alu 0b001110#6 0x0000#16 0x0000#16, alu 0b001110#6 0x7FFF#16 0x0001#16, alu 0b001110#6 0x8000#16 0xFFFF#16] = [0x0010#16, 0xFFFF#16, 0x7FFE#16, 0x7FFF#16] ∧
    [alu 0b001111#6 0x0011#16 0x0003#16, alu 0b001111#6 0x0000#16 0x0000#16, alu 0b001111#6 0x7FFF#16 0x0001#16, alu 0b001111#6 0x8000#16 0xFFFF#16] = [0xFFEF#16, 0x0000#16, 0x8001#16, 0x8000#16] := by decide

theorem test_alu_16 :
    [alu 0b010000#6 0x0011#16 0x0003#16, alu 0b010000#6 0x0000#16 0x0000#16, alu 0b010000#6 0x7FFF#16 0x0001#16, alu 0b010000#6 0x8000#16 0xFFFF#16] = [0x0002#16, 0x0000#16, 0x0000#16, 0x7FFF#16] ∧
    [alu 0b010001#6 0x0011#16 0x0003#16, alu 0b010001#6 0x0000#16 0x0000#16, alu 0b010001#6 0x7FFF#16 0x0001#16, alu 0b010001#6 0x8000#16 0xFFFF#16] = [0xFFFD#16, 0xFFFF#16, 0xFFFF#16, 0x8000#16] ∧
    [alu 0b010010#6 0x0011#16 0x0003#16, alu 0b010010#6 0x0000#16 0x0000#16, alu 0b010010#6 0x7FFF#16 0x0001#16, alu 0b010010#6 0x8000#16 0xFFFF#16] = [0xFFF1#16, 0xFFFF#16, 0x8001#16, 0x7FFE#16] ∧
    [alu 0b010011#6 0x0011#16 0x0003#16, alu 0b010011#6 0x0000#16 0x0000#16, alu 0b010011#6 0x7FFF#16 0x0001#16, alu 0b010011#6 0x8000#16 0xFFFF#16] = [0x000E#16, 0x0000#16, 0x7FFE#16, 0x8001#16] ∧
    [alu 0b010100#6 0x0011#16 0x0003#16, alu 0b010100#6 0x0000#16 0x0000#16, alu 0b010100#6 0x7FFF#16 0x0001#16, alu 0b010100#6 0x8000#16 0xFFFF#16] = [0xFFEC#16, 0xFFFF#16, 0x8000#16, 0x0000#16] ∧
    [alu 0b010101#6 0x0011#16 0x0003#16, alu 0b010101#6 0x0000#16 0x0000#16, alu 0b010101#6 0x7FFF#16 0x0001#16, alu 0b010101#6 0x8000#16 0xFFFF#16] = [0x0013#16, 0x0000#16, 0x7FFF#16, 0xFFFF#16] ∧
    [alu 0b010110#6 0x0011#16 0x0003#16, alu 0b010110#6 0x0000#16 0x0000#16, alu 0b010110#6 0x7FFF#16 0x0001#16, alu 0b010110#6 0x8000#16 0xFFFF#16] = [0xFFEA#16, 0xFFFE#16, 0x7FFE#16, 0x7FFF#16] ∧
    [alu 0b010111#6 0x0011#16 0x0003#16, alu 0b010111#6 0x0000#16 0x0000#16, alu 0b010111#6 0x7FFF#16 0x0001#16, alu 0b010111#6 0x8000#16 0xFFFF#16] = [0x0015#16, 0x0001#16, 0x8001#16, 0x8000#16] := by decide

theorem test_alu_24 :
    [alu 0b011000#6 0x0011#16 0x0003#16, alu 0b011000#6 0x0000#16 0x0000#16, alu 0b011000#6 0x7FFF#16 0x0001#16, alu 0b011000#6 0x8000#16 0xFFFF#16] = [0x0000#16, 0x0000#16, 0x0000#16, 0x0000#16] ∧
    [alu 0b011001#6 0x0011#16 0x0003#16, alu 0b011001#6 0x0000#16 0x0000#16, alu 0b011001#6 0x7FFF#16 0x0001#16, alu 0b011001#6 0x8000#16 0xFFFF#16] = [0xFFFF#16, 0xFFFF#16, 0xFFFF#16, 0xFFFF#16] ∧
    [alu 0b011010#6 0x0011#16 0x0003#16, alu 0b011010#6 0x0000#16 0x0000#16, alu 0b011010#6 0x7FFF#16 0x0001#16, alu 0b011010#6 0x8000#16 0xFFFF#16] = [0xFFEE#16, 0xFFFF#16, 0x8000#16, 0x7FFF#16] ∧
    [alu 0b011011#6 0x0011#16 0x0003#16, alu 0b011011#6 0x0000#16 0x0000#16, alu 0b011011#6 0x7FFF#16 0x0001#16, alu 0b011011#6 0x8000#16 0xFFFF#16] = [0x0011#16, 0x0000#16, 0x7FFF#16, 0x8000#16] ∧
    [alu 0b011100#6 0x0011#16 0x0003#16, alu 0b011100#6 0x0000#16 0x0000#16, alu 0b011100#6 0x7FFF#16 0x0001#16, alu 0b011100#6 0x8000#16 0xFFFF#16] = [0xFFEE#16, 0xFFFF#16, 0x8000#16, 0x7FFF#16] ∧
    [alu 0b011101#6 0x0011#16 0x0003#16, alu 0b011101#6 0x0000#16 0x0000#16, alu 0b011101#6 0x7FFF#16 0x0001#16, alu 0b011101#6 0x8000#16 0xFFFF#16] = [0x0011#16, 0x0000#16, 0x7FFF#16, 0x8000#16] ∧
    [alu 0b011110#6 0x0011#16 0x0003#16, alu 0b011110#6 0x0000#16 0x0000#16, alu 0b011110#6 0x7FFF#16 0x0001#16, alu 0b011110#6 0x8000#16 0xFFFF#16] = [0xFFED#16, 0xFFFE#16, 0x7FFF#16, 0x7FFE#16] ∧
    [alu 0b011111#6 0x0011#16 0x0003#16, alu 0b011111#6 0x0000#16 0x0000#16, alu 0b011111#6 0x7FFF#16 0x0001#16, alu 0b011111#6 0x8000#16 0xFFFF#16] = [0x0012#16, 0x0001#16, 0x8000#16, 0x8001#16] := by decide

theorem test_alu_32 :
    [alu 0b100000#6 0x0011#16 0x0003#16, alu 0b100000#6 0x0000#16 0x0000#16, alu 0b100000#6 0x7FFF#16 0x0001#16, alu 0b100000#6 0x8000#16 0xFFFF#16] = [0x0000#16, 0x0000#16, 0x0000#16, 0x0000#16] ∧
    [alu 0b100001#6 0x0011#16 0x0003#16, alu 0b100001#6 0x0000#16 0x0000#16, alu 0b100001#6 0x7FFF#16 0x0001#16, alu 0b100001#6 0x8000#16 0xFFFF#16] = [0xFFFF#16, 0xFFFF#16, 0xFFFF#16, 0xFFFF#16] ∧
    [alu 0b100010#6 0x0011#16 0x0003#16, alu 0b100010#6 0x0000#16 0x0000#16, alu 0b100010#6 0x7FFF#16 0x0001#16, alu 0b100010#6 0x8000#16 0xFFFF#16] = [0x0003#16, 0x0000#16, 0x0001#16, 0xFFFF#16] ∧
    [alu 0b100011#6 0x0011#16 0x0003#16, alu 0b100011#6 0x0000#16 0x0000#16, alu 0b100011#6 0x7FFF#16 0x0001#16, alu 0b100011#6 0x8000#16 0xFFFF#16] = [0xFFFC#16, 0xFFFF#16, 0xFFFE#16, 0x0000#16] ∧
    [alu 0b100100#6 0x0011#16 0x0003#16, alu 0b100100#6 0x0000#16 0x0000#16, alu 0b100100#6 0x7FFF#16 0x0001#16, alu 0b100100#6 0x8000#16 0xFFFF#16] = [0x0000#16, 0x0000#16, 0x0000#16, 0x0000#16] ∧
    [alu 0b100101#6 0x0011#16 0x0003#16, alu 0b100101#6 0x0000#16 0x0000#16, alu 0b100101#6 0x7FFF#16 0x0001#16, alu 0b100101#6 0x8000#16 0xFFFF#16] = [0xFFFF#16, 0xFFFF#16, 0xFFFF#16, 0xFFFF#16] ∧
    [alu 0b100110#6 0x0011#16 0x0003#16, alu 0b100110#6 0x0000#16 0x0000#16, alu 0b100110#6 0x7FFF#16 0x0001#16, alu 0b100110#6 0x8000#16 0xFFFF#16] = [0xFFFC#16, 0xFFFF#16, 0xFFFE#16, 0x0000#16] ∧
    [alu 0b100111#6 0x0011#16 0x0003#16, alu 0b100111#6 0x0000#16 0x0000#16, alu 0b100111#6 0x7FFF#16 0x0001#16, alu 0b100111#6 0x8000#16 0xFFFF#16] = [0x0003#16, 0x0000#16, 0x0001#16, 0xFFFF#16] := by decide

theorem test_alu_40 :
    [alu 0b101000#6 0x0011#16 0x0003#16, alu 0b101000#6 0x0000#16 0x0000#16, alu 0b101000#6 0x7FFF#16 0x0001#16, alu 0b101000#6 0x8000#16 0xFFFF#16] = [0x0000#16, 0x0000#16, 0x0000#16, 0x0000#16] ∧
    [alu 0b101001#6 0x0011#16 0x0003#16, alu 0b101001#6 0x0000#16 0x0000#16, alu 0b101001#6 0x7FFF#16 0x0001#16, alu 0b101001#6 0x8000#16 0xFFFF#16] = [0xFFFF#16, 0xFFFF#16, 0xFFFF#16, 0xFFFF#16] ∧
    [alu 0b101010#6 0x0011#16 0x0003#16, alu 0b101010#6 0x0000#16 0x0000#16, alu 0b101010#6 0x7FFF#16 0x0001#16, alu 0b101010#6 0x8000#16 0xFFFF#16] = [0x0000#16, 0x0000#16, 0x0000#16, 0x0000#16] ∧
    [alu 0b101011#6 0x0011#16 0x0003#16, alu 0b101011#6 0x0000#16 0x0000#16, alu 0b101011#6 0x7FFF#16 0x0001#16, alu 0b101011#6 0x8000#16 0xFFFF#16] = [0xFFFF#16, 0xFFFF#16, 0xFFFF#16, 0xFFFF#16] ∧
    [alu 0b101100#6 0x0011#16 0x0003#16, alu 0b101100#6 0x0000#16 0x0000#16, alu 0b101100#6 0x7FFF#16 0x0001#16, alu 0b101100#6 0x8000#16 0xFFFF#16] = [0x0000#16, 0x0000#16, 0x0000#16, 0x0000#16] ∧
    [alu 0b101101#6 0x0011#16 0x0003#16, alu 0b101101#6 0x0000#16 0x0000#16, alu 0b101101#6 0x7FFF#16 0x0001#16, alu 0b101101#6 0x8000#16 0xFFFF#16] = [0xFFFF#16, 0xFFFF#16, 0xFFFF#16, 0xFFFF#16] ∧
    [alu 0b101110#6 0x0011#16 0x0003#16, alu 0b101110#6 0x0000#16 0x0000#16, alu 0b101110#6 0x7FFF#16 0x0001#16, alu 0b101110#6 0x8000#16 0xFFFF#16] = [0xFFFF#16, 0xFFFF#16, 0xFFFF#16, 0xFFFF#16] ∧
    [alu 0b101111#6 0x0011#16 0x0003#16, alu 0b101111#6 0x0000#16 0x0000#16, alu 0b101111#6 0x7FFF#16 0x0001#16, alu 0b101111#6 0x8000#16 0xFFFF#16] = [0x0000#16, 0x0000#16, 0x0000#16, 0x0000#16] := by decide

theorem test_alu_48 :
    [alu 0b110000#6 0x0011#16 0x0003#16, alu 0b110000#6 0x0000#16 0x0000#16, alu 0b110000#6 0x7FFF#16 0x0001#16, alu 0b110000#6 0x8000#16 0xFFFF#16] = [0x0003#16, 0x0000#16, 0x0001#16, 0xFFFF#16] ∧
    [alu 0b110001#6 0x0011#16 0x0003#16, alu 0b110001#6 0x0000#16 0x0000#16, alu 0b110001#6 0x7FFF#16 0x0001#16, alu 0b110001#6 0x8000#16 0xFFFF#16] = [0xFFFC#16, 0xFFFF#16, 0xFFFE#16, 0x0000#16] ∧
    [alu 0b110010#6 0x0011#16 0x0003#16, alu 0b110010#6 0x0000#16 0x0000#16, alu 0b110010#6 0x7FFF#16 0x0001#16, alu 0b110010#6 0x8000#16 0xFFFF#16] = [0x0002#16, 0xFFFF#16, 0x0000#16, 0xFFFE#16] ∧
    [alu 0b110011#6 0x0011#16 0x0003#16, alu 0b110011#6 0x0000#16 0x0000#16, alu 0b110011#6 0x7FFF#16 0x0001#16, alu 0b110011#6 0x8000#16 0xFFFF#16] = [0xFFFD#16, 0x0000#16, 0xFFFF#16, 0x0001#16] ∧
    [alu 0b110100#6 0x0011#16 0x0003#16, alu 0b110100#6 0x0000#16 0x0000#16, alu 0b110100#6 0x7FFF#16 0x0001#16, alu 0b110100#6 0x8000#16 0xFFFF#16] = [0xFFFC#16, 0xFFFF#16, 0xFFFE#16, 0x0000#16] ∧
    [alu 0b110101#6 0x0011#16 0x0003#16, alu 0b110101#6 0x0000#16 0x0000#16, alu 0b110101#6 0x7FFF#16 0x0001#16, alu 0b110101#6 0x8000#16 0xFFFF#16] = [0x0003#16, 0x0000#16, 0x0001#16, 0xFFFF#16] ∧
    [alu 0b110110#6 0x0011#16 0x0003#16, alu 0b110110#6 0x0000#16 0x0000#16, alu 0b110110#6 0x7FFF#16 0x0001#16, alu 0b110110#6 0x8000#16 0xFFFF#16] = [0xFFFB#16, 0xFFFE#16, 0xFFFD#16, 0xFFFF#16] ∧
    [alu 0b110111#6 0x0011#16 0x0003#16, alu 0b110111#6 0x0000#16 0x0000#16, alu 0b110111#6 0x7FFF#16 0x0001#16, alu 0b110111#6 0x8000#16 0xFFFF#16] = [0x0004#16, 0x0001#16, 0x0002#16, 0x0000#16] := by decide

theorem test_alu_56 :
    [alu 0b111000#6 0x0011#16 0x0003#16, alu 0b111000#6 0x0000#16 0x0000#16, alu 0b111000#6 0x7FFF#16 0x0001#16, alu 0b111000#6 0x8000#16 0xFFFF#16] = [0x0000#16, 0x0000#16, 0x0000#16, 0x0000#16] ∧
    [alu 0b111001#6 0x0011#16 0x0003#16, alu 0b111001#6 0x0000#16 0x0000#16, alu 0b111001#6 0x7FFF#16 0x0001#16, alu 0b111001#6 0x8000#16 0xFFFF#16] = [0xFFFF#16, 0xFFFF#16, 0xFFFF#16, 0xFFFF#16] ∧
    [alu 0b111010#6 0x0011#16 0x0003#16, alu 0b111010#6 0x0000#16 0x0000#16, alu 0b111010#6 0x7FFF#16 0x0001#16, alu 0b111010#6 0x8000#16 0xFFFF#16] = [0xFFFF#16, 0xFFFF#16, 0xFFFF#16, 0xFFFF#16] ∧
    [alu 0b111011#6 0x0011#16 0x0003#16, alu 0b111011#6 0x0000#16 0x0000#16, alu 0b111011#6 0x7FFF#16 0x0001#16, alu 0b111011#6 0x8000#16 0xFFFF#16] = [0x0000#16, 0x0000#16, 0x0000#16, 0x0000#16] ∧
    [alu 0b111100#6 0x0011#16 0x0003#16, alu 0b111100#6 0x0000#16 0x0000#16, alu 0b111100#6 0x7FFF#16 0x0001#16, alu 0b111100#6 0x8000#16 0xFFFF#16] = [0xFFFF#16, 0xFFFF#16, 0xFFFF#16, 0xFFFF#16] ∧
    [alu 0b111101#6 0x0011#16 0x0003#16, alu 0b111101#6 0x0000#16 0x0000#16, alu 0b111101#6 0x7FFF#16 0x0001#16, alu 0b111101#6 0x8000#16 0xFFFF#16] = [0x0000#16, 0x0000#16, 0x0000#16, 0x0000#16] ∧
    [alu 0b111110#6 0x0011#16 0x0003#16, alu 0b111110#6 0x0000#16 0x0000#16, alu 0b111110#6 0x7FFF#16 0x0001#16, alu 0b111110#6 0x8000#16 0xFFFF#16] = [0xFFFE#16, 0xFFFE#16, 0xFFFE#16, 0xFFFE#16] ∧
    [alu 0b111111#6 0x0011#16 0x0003#16, alu 0b111111#6 0x0000#16 0x0000#16, alu 0b111111#6 0x7FFF#16 0x0001#16, alu 0b111111#6 0x8000#16 0xFFFF#16] = [0x0001#16, 0x0001#16, 0x0001#16, 0x0001#16] := by decide

/-! ### Every computation through a step, D as destination, the pair P1 = (0x0011, 0x0003): y in A, then y in RAM[9] -/

theorem test_step_aMode_0 :
    [0xE010#16, 0xE050#16, 0xE090#16, 0xE0D0#16, 0xE110#16, 0xE150#16, 0xE190#16, 0xE1D0#16, 0xE210#16, 0xE250#16, 0xE290#16, 0xE2D0#16, 0xE310#16, 0xE350#16, 0xE390#16, 0xE3D0#16].map (newD 3#16 0x11#16 []) =
    [0x0001#16, 0xFFFE#16, 0x0014#16, 0xFFEB#16, 0x0010#16, 0xFFEF#16, 0x000D#16, 0xFFF2#16, 0x0000#16, 0xFFFF#16, 0x0011#16, 0xFFEE#16, 0x0011#16, 0xFFEE#16, 0x0010#16, 0xFFEF#16] := by decide

theorem test_step_mMode_0 :
    [0xF010#16, 0xF050#16, 0xF090#16, 0xF0D0#16, 0xF110#16, 0xF150#16, 0xF190#16, 0xF1D0#16, 0xF210#16, 0xF250#16, 0xF290#16, 0xF2D0#16, 0xF310#16, 0xF350#16, 0xF390#16, 0xF3D0#16].map (newD 9#16 0x11#16 [(9, 3#16)]) =
    [0x0001#16, 0xFFFE#16, 0x0014#16, 0xFFEB#16, 0x0010#16, 0xFFEF#16, 0x000D#16, 0xFFF2#16, 0x0000#16, 0xFFFF#16, 0x0011#16, 0xFFEE#16, 0x0011#16, 0xFFEE#16, 0x0010#16, 0xFFEF#16] := by decide

theorem test_step_aMode_16 :
    [0xE410#16, 0xE450#16, 0xE490#16, 0xE4D0#16, 0xE510#16, 0xE550#16, 0xE590#16, 0xE5D0#16, 0xE610#16, 0xE650#16, 0xE690#16, 0xE6D0#16, 0xE710#16, 0xE750#16, 0xE790#16, 0xE7D0#16].map (newD 3#16 0x11#16 []) =
    [0x0002#16, 0xFFFD#16, 0xFFF1#16, 0x000E#16, 0xFFEC#16, 0x0013#16, 0xFFEA#16, 0x0015#16, 0x0000#16, 0xFFFF#16, 0xFFEE#16, 0x0011#16, 0xFFEE#16, 0x0011#16, 0xFFED#16, 0x0012#16] := by decide

theorem test_step_mMode_16 :
    [0xF410#16, 0xF450#16, 0xF490#16, 0xF4D0#16, 0xF510#16, 0xF550#16, 0xF590#16, 0xF5D0#16, 0xF610#16, 0xF650#16, 0xF690#16, 0xF6D0#16, 0xF710#16, 0xF750#16, 0xF790#16, 0xF7D0#16].map (newD 9#16 0x11#16 [(9, 3#16)]) =
    [0x0002#16, 0xFFFD#16, 0xFFF1#16, 0x000E#16, 0xFFEC#16, 0x0013#16, 0xFFEA#16, 0x0015#16, 0x0000#16, 0xFFFF#16, 0xFFEE#16, 0x0011#16, 0xFFEE#16, 0x0011#16, 0xFFED#16, 0x0012#16] := by decide

theorem test_step_aMode_32 :
    [0xE810#16, 0xE850#16, 0xE890#16, 0xE8D0#16, 0xE910#16, 0xE950#16, 0xE990#16, 0xE9D0#16, 0xEA10#16, 0xEA50#16, 0xEA90#16, 0xEAD0#16, 0xEB10#16, 0xEB50#16, 0xEB90#16, 0xEBD0#16].map (newD 3#16 0x11#16 []) =
    [0x0000#16, 0xFFFF#16, 0x0003#16, 0xFFFC#16, 0x0000#16, 0xFFFF#16, 0xFFFC#16, 0x0003#16, 0x0000#16, 0xFFFF#16, 0x0000#16, 0xFFFF#16, 0x0000#16, 0xFFFF#16, 0xFFFF#16, 0x0000#16] := by decide

theorem test_step_mMode_32 :
    [0xF810#16, 0xF850#16, 0xF890#16, 0xF8D0#16, 0xF910#16, 0xF950#16, 0xF990#16, 0xF9D0#16, 0xFA10#16, 0xFA50#16, 0xFA90#16, 0xFAD0#16, 0xFB10#16, 0xFB50#16, 0xFB90#16, 0xFBD0#16].map (newD 9#16 0x11#16 [(9, 3#16)]) =
    [0x0000#16, 0xFFFF#16, 0x0003#16, 0xFFFC#16, 0x0000#16, 0xFFFF#16, 0xFFFC#16, 0x0003#16, 0x0000#16, 0xFFFF#16, 0x0000#16, 0xFFFF#16, 0x0000#16, 0xFFFF#16, 0xFFFF#16, 0x0000#16] := by decide

theorem test_step_aMode_48 :
    [0xEC10#16, 0xEC50#16, 0xEC90#16, 0xECD0#16, 0xED10#16, 0xED50#16, 0xED90#16, 0xEDD0#16, 0xEE10#16, 0xEE50#16, 0xEE90#16, 0xEED0#16, 0xEF10#16, 0xEF50#16, 0xEF90#16, 0xEFD0#16].map (newD 3#16 0x11#16 []) =
    [0x0003#16, 0xFFFC#16, 0x0002#16, 0xFFFD#16, 0xFFFC#16, 0x0003#16, 0xFFFB#16, 0x0004#16, 0x0000#16, 0xFFFF#16, 0xFFFF#16, 0x0000#16, 0xFFFF#16, 0x0000#16, 0xFFFE#16, 0x0001#16] := by decide

theorem test_step_mMode_48 :
    [0xFC10#16, 0xFC50#16, 0xFC90#16, 0xFCD0#16, 0xFD10#16, 0xFD50#16, 0xFD90#16, 0xFDD0#16, 0xFE10#16, 0xFE50#16, 0xFE90#16, 0xFED0#16, 0xFF10#16, 0xFF50#16, 0xFF90#16, 0xFFD0#16].map (newD 9#16 0x11#16 [(9, 3#16)]) =
    [0x0003#16, 0xFFFC#16, 0x0002#16, 0xFFFD#16, 0xFFFC#16, 0x0003#16, 0xFFFB#16, 0x0004#16, 0x0000#16, 0xFFFF#16, 0xFFFF#16, 0x0000#16, 0xFFFF#16, 0x0000#16, 0xFFFE#16, 0x0001#16] := by decide

/-! ### The 28 sanctioned computations (2.4): A = 3, D = 17, RAM[3] = 240 -/

theorem test_sanctioned_0 :
    [0xEA90#16, 0xEFD0#16, 0xEE90#16, 0xE310#16, 0xEC10#16, 0xFC10#16, 0xE350#16, 0xEC50#16, 0xFC50#16, 0xE3D0#16, 0xECD0#16, 0xFCD0#16, 0xE7D0#16, 0xEDD0#16].map (newD 3#16 0x11#16 [(3, 0xF0#16)]) =
    [0x0000#16, 0x0001#16, 0xFFFF#16, 0x0011#16, 0x0003#16, 0x00F0#16, 0xFFEE#16, 0xFFFC#16, 0xFF0F#16, 0xFFEF#16, 0xFFFD#16, 0xFF10#16, 0x0012#16, 0x0004#16] := by decide

theorem test_sanctioned_14 :
    [0xFDD0#16, 0xE390#16, 0xEC90#16, 0xFC90#16, 0xE090#16, 0xF090#16, 0xE4D0#16, 0xF4D0#16, 0xE1D0#16, 0xF1D0#16, 0xE010#16, 0xF010#16, 0xE550#16, 0xF550#16].map (newD 3#16 0x11#16 [(3, 0xF0#16)]) =
    [0x00F1#16, 0x0010#16, 0x0002#16, 0x00EF#16, 0x0014#16, 0x0101#16, 0x000E#16, 0xFF21#16, 0xFFF2#16, 0x00DF#16, 0x0001#16, 0x0010#16, 0x0013#16, 0x00F1#16] := by decide

/-! ### Jumps (2.6): `D;J..` at index 7, A = 100; the pc after the tick for D = 0, 1, 0x7FFF, 0x8000, 0xFFFF -/

/-- The pc after one tick of `w` at index 7 with A = 100. -/
def pcAfter (w D : Word) : Option Nat := (seen (at0 100#16 D 7 [] w)).map (fun v => v.pc)

theorem test_jumps :
    [0#16, 1#16, 0x7FFF#16, 0x8000#16, 0xFFFF#16].map (pcAfter 0xE300#16) = [8, 8, 8, 8, 8].map some ∧
    [0#16, 1#16, 0x7FFF#16, 0x8000#16, 0xFFFF#16].map (pcAfter 0xE301#16) = [8, 100, 100, 8, 8].map some ∧
    [0#16, 1#16, 0x7FFF#16, 0x8000#16, 0xFFFF#16].map (pcAfter 0xE302#16) = [100, 8, 8, 8, 8].map some ∧
    [0#16, 1#16, 0x7FFF#16, 0x8000#16, 0xFFFF#16].map (pcAfter 0xE303#16) = [100, 100, 100, 8, 8].map some ∧
    [0#16, 1#16, 0x7FFF#16, 0x8000#16, 0xFFFF#16].map (pcAfter 0xE304#16) = [8, 8, 8, 100, 100].map some ∧
    [0#16, 1#16, 0x7FFF#16, 0x8000#16, 0xFFFF#16].map (pcAfter 0xE305#16) = [8, 100, 100, 100, 100].map some ∧
    [0#16, 1#16, 0x7FFF#16, 0x8000#16, 0xFFFF#16].map (pcAfter 0xE306#16) = [100, 8, 8, 100, 100].map some ∧
    [0#16, 1#16, 0x7FFF#16, 0x8000#16, 0xFFFF#16].map (pcAfter 0xE307#16) = [100, 100, 100, 100, 100].map some := by decide

/-! ### Destinations (2.7): `dest=D+1` from A = 100, D = 7, RAM[100] = 55 -/

theorem test_destinations :
    seen (at0 100#16 7#16 0 [(100, 55#16)] 0xE7C0#16) = some ⟨100#16, 7#16, 1, [(100, 55#16)], false⟩ ∧
    seen (at0 100#16 7#16 0 [(100, 55#16)] 0xE7C8#16) = some ⟨100#16, 7#16, 1, [(100, 8#16)], false⟩ ∧
    seen (at0 100#16 7#16 0 [(100, 55#16)] 0xE7D0#16) = some ⟨100#16, 8#16, 1, [(100, 55#16)], false⟩ ∧
    seen (at0 100#16 7#16 0 [(100, 55#16)] 0xE7D8#16) = some ⟨100#16, 8#16, 1, [(100, 8#16)], false⟩ ∧
    seen (at0 100#16 7#16 0 [(100, 55#16)] 0xE7E0#16) = some ⟨8#16, 7#16, 1, [(100, 55#16)], false⟩ ∧
    seen (at0 100#16 7#16 0 [(100, 55#16)] 0xE7E8#16) = some ⟨8#16, 7#16, 1, [(100, 8#16)], false⟩ ∧
    seen (at0 100#16 7#16 0 [(100, 55#16)] 0xE7F0#16) = some ⟨8#16, 8#16, 1, [(100, 55#16)], false⟩ ∧
    seen (at0 100#16 7#16 0 [(100, 55#16)] 0xE7F8#16) = some ⟨8#16, 8#16, 1, [(100, 8#16)], false⟩ := by decide

/-! ### Reads before writes (2.8, S3) -/

theorem test_jump_through_the_old_A :
    seen (at0 77#16 0#16 2 [] 0xEAA7#16) = some ⟨0#16, 0#16, 77, [], false⟩ ∧
    seen (at0 20#16 30#16 2 [] 0xE327#16) = some ⟨30#16, 30#16, 20, [], false⟩ ∧
    seen (at0 5#16 5#16 2 [] 0xEAA7#16) = some ⟨0#16, 5#16, 5, [], false⟩ := by decide

theorem test_source_is_destination :
    seen (at0 5#16 0#16 2 [] 0xEDE0#16) = some ⟨6#16, 0#16, 3, [], false⟩ ∧
    seen (at0 50#16 0#16 2 [(50, 9#16)] 0xFDE8#16) = some ⟨10#16, 0#16, 3, [(50, 10#16)], false⟩ ∧
    seen (at0 3#16 4#16 2 [] 0xE0B0#16) = some ⟨7#16, 7#16, 3, [], false⟩ ∧
    seen (at0 8#16 1#16 2 [(8, 2#16)] 0xF0B9#16) = some ⟨3#16, 3#16, 8, [(8, 3#16)], false⟩ := by decide

theorem test_loop_counter :
    seen (at0 40#16 1#16 2 [] 0xE391#16) = some ⟨40#16, 0#16, 3, [], false⟩ ∧
    seen (at0 40#16 2#16 2 [] 0xE391#16) = some ⟨40#16, 1#16, 40, [], false⟩ := by decide

theorem test_wraps :
    seen (at0 16#16 0#16 2 [(16, 65535#16)] 0xFDC8#16) = some ⟨16#16, 0#16, 3, [], false⟩ ∧
    seen (at0 16#16 3#16 2 [] 0xFC98#16) = some ⟨16#16, 65535#16, 3, [(16, 65535#16)], false⟩ ∧
    seen (at0 0#16 32768#16 2 [] 0xE3D0#16) = some ⟨0#16, 32768#16, 3, [], false⟩ ∧
    seen (at0 100#16 9#16 2 [] 0xE30F#16) = some ⟨100#16, 9#16, 100, [(100, 9#16)], false⟩ := by decide

/-! ### The edges of the address map (2.9): `M=D`, then `D=M`, with D = 0x00AA and the cell at 5 -/

/-- The cell and display-changed after `M=D` at `a`, and the new D after `D=M` there. -/
def edge (a : Nat) : Option (Word × Bool × Word) :=
  match seen (at0 (BitVec.ofNat 16 a) 0xAA#16 0 [(a, 5#16)] 0xE308#16), seen (at0 (BitVec.ofNat 16 a) 0xAA#16 0 [(a, 5#16)] 0xFC10#16) with
  | some u, some v => some (u.ram.read a, u.displayChanged, v.D)
  | _, _ => none

theorem test_edges_plain :
    [0, 15, 16, 16383, 24577, 32767, 32768, 65534].map edge = List.replicate 8 (some (0xAA#16, false, 5#16)) := by decide

theorem test_edges_screen : [16384, 20000, 24575].map edge = List.replicate 3 (some (0xAA#16, true, 5#16)) := by decide

theorem test_edge_keyboard : edge 24576 = some (5#16, false, 5#16) := by decide

/-- S4: `M=-1` and `MD=-1` at the keyboard cell. -/
theorem test_keyboard_write_dropped :
    seen (at0 24576#16 0#16 1 [(24576, 0x41#16)] 0xEE88#16) = some ⟨24576#16, 0#16, 2, [(24576, 0x41#16)], false⟩ ∧
    seen (at0 24576#16 0#16 1 [(24576, 0x41#16)] 0xEE98#16) = some ⟨24576#16, 0xFFFF#16, 2, [(24576, 0x41#16)], false⟩ := by
  decide

/-- S8: one screen word. -/
theorem test_screen_word :
    seen (at0 16384#16 0#16 1 [] 0xEE88#16) = some ⟨16384#16, 0#16, 2, [(16384, 0xFFFF#16)], true⟩ := by decide

/-- 2.9, last paragraph: the same value written again reports again, unless SKIP_REDUNDANT_SCREEN_WRITES is set. -/
theorem test_redundant_screen_write :
    (seen (at0 16384#16 0xAA#16 0 [(16384, 0xAA#16)] 0xE308#16)).map (fun v => v.displayChanged) = some true ∧
    (seen { at0 16384#16 0xAA#16 0 [(16384, 0xAA#16)] 0xE308#16 with params := ⟨65535, true⟩ }).map (fun v => v.displayChanged) = some false := by
  decide

/-! ### Fatal errors (2.10) -/

theorem test_pc_out_of_range :
    failed (booted []) = some ⟨some (.pcOutOfRange 0), 0#16, 0#16, [], false⟩ ∧
    failed { booted [0xEA80#16] with pc := 1 } = some ⟨some (.pcOutOfRange 1), 0#16, 0#16, [], false⟩ ∧
    failed { booted [0xEEA0#16, 0xEC10#16, 0xEA87#16] with A := 0xFFFF#16, D := 0xFFFF#16, pc := 65535 } =
      some ⟨some (.pcOutOfRange 65535), 0xFFFF#16, 0xFFFF#16, [], false⟩ := by decide

/-- `0;JMP` to an index that holds no word succeeds; the next fetch fails. -/
theorem test_jump_out_succeeds :
    seen { booted [0x0003#16, 0xEA87#16, 0xEA80#16] with A := 3#16, pc := 1 } = some ⟨3#16, 0#16, 3, [], false⟩ := by decide

theorem test_decode_error :
    failed (booted [0x8000#16]) = some ⟨some (.decodeError 0 0x8000#16), 0#16, 0#16, [], false⟩ ∧
    failed { booted [0x0005#16, 0xC123#16] with A := 5#16, pc := 1 } = some ⟨some (.decodeError 1 0xC123#16), 5#16, 0#16, [], false⟩ := by
  decide

theorem test_decode_error_each_prefix :
    failed (booted [0x9FFF#16]) = some ⟨some (.decodeError 0 0x9FFF#16), 0#16, 0#16, [], false⟩ ∧
    failed (booted [0xA000#16]) = some ⟨some (.decodeError 0 0xA000#16), 0#16, 0#16, [], false⟩ ∧
    failed (booted [0xDFFF#16]) = some ⟨some (.decodeError 0 0xDFFF#16), 0#16, 0#16, [], false⟩ := by decide

theorem test_address_out_of_range :
    failed (at0 0xFFFF#16 0xFFFF#16 2 [] 0xFC10#16) = some ⟨some (.addressOutOfRange 2 0xFC10#16 65535), 0xFFFF#16, 0xFFFF#16, [], false⟩ ∧
    failed (at0 0xFFFF#16 0#16 1 [] 0xE308#16) = some ⟨some (.addressOutOfRange 1 0xE308#16 65535), 0xFFFF#16, 0#16, [], false⟩ ∧
    failed (at0 0xFFFF#16 0#16 1 [] 0xFA80#16) = some ⟨some (.addressOutOfRange 1 0xFA80#16 65535), 0xFFFF#16, 0#16, [], false⟩ := by
  decide

/-- A = 65535 without a memory access is no error. -/
theorem test_A_65535_off_memory :
    seen (at0 0xFFFF#16 0#16 1 [] 0xEC10#16) = some ⟨0xFFFF#16, 0xFFFF#16, 2, [], false⟩ ∧
    seen (at0 0xFFFF#16 0#16 2 [] 0xEA87#16) = some ⟨0xFFFF#16, 0#16, 65535, [], false⟩ := by decide

/-- After an error a tick returns it again and changes nothing (2.10, last row). -/
theorem test_faulted_again :
    ({ booted [0x0005#16] with status := .faulted (.pcOutOfRange 7) } : State).tick =
      (some (.pcOutOfRange 7), { booted [0x0005#16] with status := .faulted (.pcOutOfRange 7) }) := by decide

/-! ### The host (S4, S8, P3) -/

theorem test_query_clears :
    ({ State.reset with displayChanged := true } : State).queryDisplay = (true, State.reset) ∧
    State.reset.queryDisplay = (false, State.reset) := by decide

theorem test_set_keyboard :
    (State.reset.setKeyboard 0x41#16).ram = [(24576, 0x41#16)] ∧ ((State.reset.setKeyboard 0x41#16).setKeyboard 0#16) = State.reset := by
  decide

theorem test_host_read :
    State.reset.hostReadCell 65534 = .ok 0#16 ∧ State.reset.hostReadCell 65535 = .error (.outsideHostSurface 65535) := ⟨rfl, rfl⟩

/-- R23 on the tick of `M=D` at 100. -/
theorem test_ports :
    (at0 100#16 9#16 2 [] 0xE308#16).ports =
      { iaddr := 2, idata := some 0xE308#16, daddr := 100#16, drdata := none, dwdata := 9#16, dwe := true,
        displayChanged := false, fault := none } := by decide

/-! ### Memory -/

theorem test_memory_canonical :
    Memory.write (Memory.write (Memory.write [] 7 1#16) 3 2#16) 5 4#16 = [(3, 2#16), (5, 4#16), (7, 1#16)] ∧
    Memory.write [(3, 2#16), (5, 4#16)] 3 0#16 = [(5, 4#16)] ∧ Memory.write [(3, 2#16)] 3 9#16 = [(3, 9#16)] := by decide

/-! ### Text (2.11, S5, S6, S7) -/

/-- One source line through the assembler. -/
def line (t : String) : Except AsmError (List Word) := assemble [t.toList]

theorem test_asm_addresses :
    line "@0" = .ok [0x0000#16] ∧ line "@32767" = .ok [0x7FFF#16] ∧ line "@0x10" = .ok [0x0010#16] ∧
    line "@0X7fff" = .ok [0x7FFF#16] ∧ line "@32768" = .error .literalRange ∧ line "@KBD" = .ok [0x6000#16] ∧
    line "@R13" = .ok [0x000D#16] ∧ line "@LCL" = .ok [0x0001#16] := by refine ⟨?_, ?_, ?_, ?_, ?_, ?_, ?_, ?_⟩ <;> rfl

theorem test_asm_symbols :
    line "@SP" = .ok [0x0000#16] ∧ line "@THAT" = .ok [0x0004#16] ∧ line "@R15" = .ok [0x000F#16] ∧
    line "@SCREEN" = .ok [0x4000#16] ∧ line "@MAX" = .ok [0x7FFF#16] := by refine ⟨?_, ?_, ?_, ?_, ?_⟩ <;> rfl

theorem test_asm_computes :
    line "D=M" = .ok [0xFC10#16] ∧ line "M=D+M" = .ok [0xF088#16] ∧ line "M=M+D" = .ok [0xF088#16] ∧
    line "D=A&D" = .ok [0xE010#16] ∧ line "D=M|D" = .ok [0xF550#16] ∧ line "D=~M" = .ok [0xFC50#16] ∧
    line "DM=M+1" = .ok [0xFDD8#16] ∧ line "MDA=0" = .ok [0xEAB8#16] ∧ line "D;JGT" = .ok [0xE301#16] := by
  refine ⟨?_, ?_, ?_, ?_, ?_, ?_, ?_, ?_, ?_⟩ <;> rfl

theorem test_asm_lines :
    line "0;JMP" = .ok [0xEA87#16] ∧ line "A=0;JMP" = .ok [0xEAA7#16] ∧ line "D=A // load" = .ok [0xEC10#16] ∧
    line "// only a comment" = .ok [] ∧ line "(LOOP)" = .ok [] := by refine ⟨?_, ?_, ?_, ?_, ?_⟩ <;> rfl

theorem test_asm_errors :
    line "X=D" = .error .badDest ∧ line "D;JXX" = .error .badJump ∧ line "D=D*A" = .error .badComp ∧
    line "D=1-D" = .error .badComp := by refine ⟨?_, ?_, ?_, ?_⟩ <;> rfl

/-- S5: the forward label is index 1. -/
theorem test_asm_forward_label :
    assemble ["@LOOP".toList, "(LOOP)".toList, "0;JMP".toList] = .ok [0x0001#16, 0xEA87#16] := by rfl

/-- S6: variables from 16 on. -/
theorem test_asm_variables :
    assemble ["@foo".toList, "@bar".toList, "@foo".toList] = .ok [0x0010#16, 0x0011#16, 0x0010#16] := by rfl

/-- R80: the counter passes over SCREEN and KBD and ends below MAX. -/
theorem test_variable_addresses :
    [0, 1, 16367, 16368, 24558, 24559, 32748].map variableAddress = [16, 17, 16383, 16385, 24575, 24577, 32766] ∧
    32767 ≤ variableAddress 32749 := by decide

/-- S7: 2 + 3, as one text. -/
theorem test_asm_two_plus_three :
    assembleText "@2\nD=A\n@3\nD=D+A\n@0\nM=D\n".toList =
      .ok [0x0002#16, 0xEC10#16, 0x0003#16, 0xE090#16, 0x0000#16, 0xE308#16] := by rfl

theorem test_format :
    format 0xEC10#16 = some "D=A".toList ∧ format 0xEAA7#16 = some "A=0;JMP".toList ∧ format 0x6000#16 = some "@24576".toList ∧
    format 0xEA80#16 = some "0".toList ∧ format 0xEF90#16 = none ∧ format 0xFA90#16 = none ∧ format 0x8000#16 = none := by
  refine ⟨?_, ?_, ?_, ?_, ?_, ?_, ?_⟩ <;> rfl

/-! ### Witnesses: for each statement with hypotheses, inputs that meet them all together, at the boundary values -/

/-- A core with A at `a`, everything else as after reset. -/
def atCell (a : Word) : State := { State.reset with A := a }

theorem witness_DecodeOfEncodeIsTheInstruction :
    WellFormed (.addressValue 0x7FFF#16) ∧ WellFormed (.dPlusM ⟨true, true, true⟩ .jgt) ∧ WellFormed (.illegal101 0x1FFF#13) := by
  decide

/-- The last cell that exists; used by every statement that asks for `s.A.toNat < s.params.memWords`. -/
theorem witness_last_cell :
    (atCell 65534#16).A.toNat < (atCell 65534#16).params.memWords ∧ (atCell 65534#16).A.toNat ≠ 24576 := by decide

theorem witness_InstructionsAreEqualJustWhenTheirWordsAre : (atCell 65534#16).A.toNat < (atCell 65534#16).params.memWords := by decide

theorem witness_ConstructedFieldsReadBack : (0x7FFF#16 : Word).toNat ≤ 32767 := by decide

theorem witness_ConstructAddressClearsTheSignBit : 0 ≤ (0x7FFF#16 : Word).toInt ∧ (0x8000#16 : Word).toInt < 0 := by decide

theorem witness_AddressInstructionLoadsA :
    (0x7FFF#16 : Word) &&& 0x8000#16 = 0#16 ∧ (0#16 : Word) &&& 0x8000#16 = 0#16 ∧
    (booted [0x7FFF#16]).status = .running ∧ (booted [0x7FFF#16]).fetch = some 0x7FFF#16 := by decide

theorem witness_AluPatterns0To7 :
    (0xF000#16 &&& 0xEFC0#16 = 0xE000#16 ∧ 0xF041#16 &&& 0xEFC0#16 = 0xE040#16 ∧ 0xF082#16 &&& 0xEFC0#16 = 0xE080#16 ∧ 0xF0C3#16 &&& 0xEFC0#16 = 0xE0C0#16 ∧ 0xF104#16 &&& 0xEFC0#16 = 0xE100#16 ∧ 0xF145#16 &&& 0xEFC0#16 = 0xE140#16 ∧ 0xF186#16 &&& 0xEFC0#16 = 0xE180#16 ∧ 0xF1C7#16 &&& 0xEFC0#16 = 0xE1C0#16) ∧
    (atCell 65534#16).A.toNat < (atCell 65534#16).params.memWords := by
  refine ⟨⟨?_, ?_, ?_, ?_, ?_, ?_, ?_, ?_⟩, by decide⟩ <;> rfl

theorem witness_AluPatterns8To15 :
    (0xF208#16 &&& 0xEFC0#16 = 0xE200#16 ∧ 0xF249#16 &&& 0xEFC0#16 = 0xE240#16 ∧ 0xF28A#16 &&& 0xEFC0#16 = 0xE280#16 ∧ 0xF2CB#16 &&& 0xEFC0#16 = 0xE2C0#16 ∧ 0xF30C#16 &&& 0xEFC0#16 = 0xE300#16 ∧ 0xF34D#16 &&& 0xEFC0#16 = 0xE340#16 ∧ 0xF38E#16 &&& 0xEFC0#16 = 0xE380#16 ∧ 0xF3CF#16 &&& 0xEFC0#16 = 0xE3C0#16) ∧
    (atCell 65534#16).A.toNat < (atCell 65534#16).params.memWords := by
  refine ⟨⟨?_, ?_, ?_, ?_, ?_, ?_, ?_, ?_⟩, by decide⟩ <;> rfl

theorem witness_AluPatterns16To23 :
    (0xF410#16 &&& 0xEFC0#16 = 0xE400#16 ∧ 0xF451#16 &&& 0xEFC0#16 = 0xE440#16 ∧ 0xF492#16 &&& 0xEFC0#16 = 0xE480#16 ∧ 0xF4D3#16 &&& 0xEFC0#16 = 0xE4C0#16 ∧ 0xF514#16 &&& 0xEFC0#16 = 0xE500#16 ∧ 0xF555#16 &&& 0xEFC0#16 = 0xE540#16 ∧ 0xF596#16 &&& 0xEFC0#16 = 0xE580#16 ∧ 0xF5D7#16 &&& 0xEFC0#16 = 0xE5C0#16) ∧
    (atCell 65534#16).A.toNat < (atCell 65534#16).params.memWords := by
  refine ⟨⟨?_, ?_, ?_, ?_, ?_, ?_, ?_, ?_⟩, by decide⟩ <;> rfl

theorem witness_AluPatterns24To31 :
    (0xF618#16 &&& 0xEFC0#16 = 0xE600#16 ∧ 0xF659#16 &&& 0xEFC0#16 = 0xE640#16 ∧ 0xF69A#16 &&& 0xEFC0#16 = 0xE680#16 ∧ 0xF6DB#16 &&& 0xEFC0#16 = 0xE6C0#16 ∧ 0xF71C#16 &&& 0xEFC0#16 = 0xE700#16 ∧ 0xF75D#16 &&& 0xEFC0#16 = 0xE740#16 ∧ 0xF79E#16 &&& 0xEFC0#16 = 0xE780#16 ∧ 0xF7DF#16 &&& 0xEFC0#16 = 0xE7C0#16) ∧
    (atCell 65534#16).A.toNat < (atCell 65534#16).params.memWords := by
  refine ⟨⟨?_, ?_, ?_, ?_, ?_, ?_, ?_, ?_⟩, by decide⟩ <;> rfl

theorem witness_AluPatterns32To39 :
    (0xF820#16 &&& 0xEFC0#16 = 0xE800#16 ∧ 0xF861#16 &&& 0xEFC0#16 = 0xE840#16 ∧ 0xF8A2#16 &&& 0xEFC0#16 = 0xE880#16 ∧ 0xF8E3#16 &&& 0xEFC0#16 = 0xE8C0#16 ∧ 0xF924#16 &&& 0xEFC0#16 = 0xE900#16 ∧ 0xF965#16 &&& 0xEFC0#16 = 0xE940#16 ∧ 0xF9A6#16 &&& 0xEFC0#16 = 0xE980#16 ∧ 0xF9E7#16 &&& 0xEFC0#16 = 0xE9C0#16) ∧
    (atCell 65534#16).A.toNat < (atCell 65534#16).params.memWords := by
  refine ⟨⟨?_, ?_, ?_, ?_, ?_, ?_, ?_, ?_⟩, by decide⟩ <;> rfl

theorem witness_AluPatterns40To47 :
    (0xFA28#16 &&& 0xEFC0#16 = 0xEA00#16 ∧ 0xFA69#16 &&& 0xEFC0#16 = 0xEA40#16 ∧ 0xFAAA#16 &&& 0xEFC0#16 = 0xEA80#16 ∧ 0xFAEB#16 &&& 0xEFC0#16 = 0xEAC0#16 ∧ 0xFB2C#16 &&& 0xEFC0#16 = 0xEB00#16 ∧ 0xFB6D#16 &&& 0xEFC0#16 = 0xEB40#16 ∧ 0xFBAE#16 &&& 0xEFC0#16 = 0xEB80#16 ∧ 0xFBEF#16 &&& 0xEFC0#16 = 0xEBC0#16) ∧
    (atCell 65534#16).A.toNat < (atCell 65534#16).params.memWords := by
  refine ⟨⟨?_, ?_, ?_, ?_, ?_, ?_, ?_, ?_⟩, by decide⟩ <;> rfl

theorem witness_AluPatterns48To55 :
    (0xFC30#16 &&& 0xEFC0#16 = 0xEC00#16 ∧ 0xFC71#16 &&& 0xEFC0#16 = 0xEC40#16 ∧ 0xFCB2#16 &&& 0xEFC0#16 = 0xEC80#16 ∧ 0xFCF3#16 &&& 0xEFC0#16 = 0xECC0#16 ∧ 0xFD34#16 &&& 0xEFC0#16 = 0xED00#16 ∧ 0xFD75#16 &&& 0xEFC0#16 = 0xED40#16 ∧ 0xFDB6#16 &&& 0xEFC0#16 = 0xED80#16 ∧ 0xFDF7#16 &&& 0xEFC0#16 = 0xEDC0#16) ∧
    (atCell 65534#16).A.toNat < (atCell 65534#16).params.memWords := by
  refine ⟨⟨?_, ?_, ?_, ?_, ?_, ?_, ?_, ?_⟩, by decide⟩ <;> rfl

theorem witness_AluPatterns56To63 :
    (0xFE38#16 &&& 0xEFC0#16 = 0xEE00#16 ∧ 0xFE79#16 &&& 0xEFC0#16 = 0xEE40#16 ∧ 0xFEBA#16 &&& 0xEFC0#16 = 0xEE80#16 ∧ 0xFEFB#16 &&& 0xEFC0#16 = 0xEEC0#16 ∧ 0xFF3C#16 &&& 0xEFC0#16 = 0xEF00#16 ∧ 0xFF7D#16 &&& 0xEFC0#16 = 0xEF40#16 ∧ 0xFFBE#16 &&& 0xEFC0#16 = 0xEF80#16 ∧ 0xFFFF#16 &&& 0xEFC0#16 = 0xEFC0#16) ∧
    (atCell 65534#16).A.toNat < (atCell 65534#16).params.memWords := by
  refine ⟨⟨?_, ?_, ?_, ?_, ?_, ?_, ?_, ?_⟩, by decide⟩ <;> rfl

/-- `MD=D+1` (no A), `A=D+1` (no D, no M) and a state with display-changed set, all at the last cell. -/
theorem witness_ComputeFrame :
    (classify 0xE7D8#16 = .compute ∧ Claim.accessOk 0xE7D8#16 (atCell 65534#16) ∧ (destOf 0xE7D8#16).toA = false ∧
      ∃ t, exec (decode 0xE7D8#16) (atCell 65534#16) = .next t ∧ t.status = (atCell 65534#16).status) ∧
    (classify 0xE7E0#16 = .compute ∧ Claim.accessOk 0xE7E0#16 (atCell 65534#16) ∧ (destOf 0xE7E0#16).toD = false ∧
      (destOf 0xE7E0#16).toM = false ∧ ∃ t, exec (decode 0xE7E0#16) (atCell 65534#16) = .next t ∧ t.status = (atCell 65534#16).status) ∧
    (∃ t, exec (decode 0xE7D8#16) ({ State.reset with A := 65534#16, displayChanged := true } : State) = .next t ∧ t.status = .running) := by
  refine ⟨⟨rfl, fun _ => by decide, rfl, _, rfl, rfl⟩, ⟨rfl, fun _ => by decide, rfl, rfl, _, rfl, rfl⟩, _, rfl, rfl⟩

/-- A word that reads and writes the last cell, and one off memory at an address without a cell. -/
theorem witness_accessOk :
    (classify 0xFDC8#16 = .compute ∧ Claim.touchesM 0xFDC8#16 ∧ Claim.accessOk 0xFDC8#16 (atCell 65534#16)) ∧
    (classify 0xE327#16 = .compute ∧ ¬ Claim.touchesM 0xE327#16 ∧ Claim.accessOk 0xE327#16 (atCell 65535#16)) := by
  have h : ¬ Claim.touchesM 0xE327#16 := by unfold Claim.touchesM; decide
  exact ⟨⟨rfl, .inl rfl, fun _ => by decide⟩, rfl, h, fun k => absurd k h⟩

theorem witness_JumpGoesThroughTheOldA : classify 0xFDC8#16 = .compute ∧ Claim.accessOk 0xFDC8#16 (atCell 65534#16) :=
  ⟨rfl, fun _ => by decide⟩

theorem witness_OneValueForEveryDestination : classify 0xFDF8#16 = .compute ∧ Claim.accessOk 0xFDF8#16 (atCell 65534#16) :=
  ⟨rfl, fun _ => by decide⟩

/-- One word for each jump code, in the order 0 to 7. -/
theorem witness_JumpCodesDecideTheNextPc :
    (∀ n ∈ List.range 8, classify (0xE300#16 ||| BitVec.ofNat 16 n) = .compute ∧
      ((0xE300#16 ||| BitVec.ofNat 16 n).extractLsb' 0 3).toNat = n) ∧
    ∀ n ∈ List.range 8, Claim.accessOk (0xE300#16 ||| BitVec.ofNat 16 n) (atCell 65535#16) := by
  refine ⟨by decide, fun n hn h => ?_⟩
  have : ∀ n ∈ List.range 8, ¬ (modeOf (0xE300#16 ||| BitVec.ofNat 16 n) = .mMode ∨ (destOf (0xE300#16 ||| BitVec.ofNat 16 n)).toM = true) := by
    decide
  exact absurd h (this n hn)

/-- `M=D+1` at the last cell and at the keyboard cell, `D=D+1`, `A=D+1`. -/
theorem witness_DestBitsSelectTheWrites :
    (classify 0xE7C8#16 = .compute ∧ Claim.accessOk 0xE7C8#16 (atCell 65534#16) ∧ (0xE7C8#16 : Word).getLsbD 3 = true ∧
      (atCell 65534#16).A.toNat ≠ 24576 ∧ (0xE7C8#16 : Word).getLsbD 4 = false ∧ (0xE7C8#16 : Word).getLsbD 5 = false) ∧
    (Claim.accessOk 0xE7C8#16 (atCell 24576#16) ∧ (atCell 24576#16).A.toNat = 24576) ∧
    (classify 0xE7F0#16 = .compute ∧ Claim.accessOk 0xE7F0#16 (atCell 65534#16) ∧ (0xE7F0#16 : Word).getLsbD 3 = false ∧
      (0xE7F0#16 : Word).getLsbD 4 = true ∧ (0xE7F0#16 : Word).getLsbD 5 = true) :=
  ⟨⟨rfl, fun _ => by decide, rfl, by decide, rfl, rfl⟩, ⟨fun _ => by decide, rfl⟩, rfl, fun _ => by decide, rfl, rfl, rfl⟩

theorem witness_ReadsComeBeforeWrites :
    ((atCell 65534#16).A.toNat < (atCell 65534#16).params.memWords ∧ (atCell 65534#16).A.toNat ≠ 24576) ∧
    (let s : State := { State.reset with A := 65534#16, D := 1#16 }
     s.A.toNat < s.params.memWords ∧ 0 < (s.D + s.ram.read s.A.toNat).toInt ∧ s.D = 1#16) := by decide

theorem witness_WordsOffMemoryIgnoreMemory : classify 0xEC90#16 = .compute ∧ ¬ Claim.touchesM 0xEC90#16 := by
  unfold Claim.touchesM; decide

/-- The three ranges of MemWrite, at their ends, with both values of the parameter. -/
theorem witness_MemWriteAsListed :
    (State.reset.params.memWords ≤ 65535) ∧ (24576 < State.reset.params.memWords) ∧
    (65534 < State.reset.params.memWords ∧ (65534 : Nat) ≠ 24576 ∧ State.reset.params.skipRedundantScreenWrites = false) ∧
    (let s : State := { State.reset with params := ⟨65535, true⟩ }
     24575 < s.params.memWords ∧ (24575 : Nat) ≠ 24576 ∧ s.params.skipRedundantScreenWrites = true) := by decide

theorem witness_CanonicalMemoriesAreEqualWhenTheyReadEqual :
    Memory.wf [(3, 5#16), (65534, 1#16)] ∧ ∀ a, Memory.read [(3, 5#16), (65534, 1#16)] a = Memory.read [(3, 5#16), (65534, 1#16)] a :=
  ⟨by decide, fun _ => rfl⟩

theorem witness_StoreThenLoadReturnsTheValue :
    (atCell 65534#16).A.toNat < (atCell 65534#16).params.memWords ∧ (atCell 65534#16).A.toNat ≠ 24576 := by decide

theorem witness_KeyboardCellIsReadOnlyToPrograms :
    (∃ t, step (at0 24576#16 1#16 0 [] 0xE308#16) = .next t) ∧
    (classify 0xE308#16 = .compute ∧ (destOf 0xE308#16).toM = true ∧ (atCell 24576#16).params.wf ∧ (atCell 24576#16).A.toNat = 24576) :=
  ⟨⟨_, rfl⟩, rfl, rfl, by decide, rfl⟩

theorem witness_ScreenWritesReport :
    classify 0xE308#16 = .compute ∧ Claim.accessOk 0xE308#16 (atCell 16384#16) ∧ Claim.accessOk 0xE308#16 (atCell 24575#16) :=
  ⟨rfl, fun _ => by decide, fun _ => by decide⟩

theorem witness_AStepChangesAtMostTheCellAtA :
    (∃ t, step (at0 100#16 1#16 0 [(101, 5#16)] 0xE308#16) = .next t) ∧ (101 : Nat) ≠ (at0 100#16 1#16 0 [(101, 5#16)] 0xE308#16).A.toNat :=
  ⟨⟨_, rfl⟩, by decide⟩

theorem witness_InvalidWordsRaiseDecodeError :
    ((booted [0x8000#16]).status = .running ∧ (booted [0x8000#16]).fetch = some 0x8000#16 ∧ 0x8000 ≤ (0x8000#16 : Word).toNat) ∧
    ((booted [0xDFFF#16]).status = .running ∧ (booted [0xDFFF#16]).fetch = some 0xDFFF#16 ∧ 0x8000 ≤ (0xDFFF#16 : Word).toNat ∧
      (0xDFFF#16 : Word).toNat ≤ 0xDFFF) := by decide

/-- A read only, and a store only, at the first address without a cell. -/
theorem witness_AccessOutOfRangeRaisesAndDoesNothing :
    (classify 0xFC10#16 = .compute ∧ Claim.touchesM 0xFC10#16 ∧ (atCell 65535#16).params.memWords ≤ (atCell 65535#16).A.toNat) ∧
    (classify 0xE308#16 = .compute ∧ Claim.touchesM 0xE308#16) := by
  unfold Claim.touchesM; decide

theorem witness_PcOutOfRangeIsRaisedByTheFetch :
    (State.reset.status = .running ∧ State.reset.prog.length ≤ State.reset.pc) ∧
    (let s : State := { booted [0#16] with pc := 1 }
     s.status = .running ∧ s.prog.length ≤ s.pc) := by decide

/-- A state for each of the three errors and one for success. -/
theorem witness_EachErrorUnderItsOwnCondition :
    (booted []).tick.1 = some (.pcOutOfRange 0) ∧ (booted [0xA000#16]).tick.1 = some (.decodeError 0 0xA000#16) ∧
    (at0 65535#16 0#16 0 [] 0xFC10#16).tick.1 = some (.addressOutOfRange 0 0xFC10#16 65535) ∧
    (at0 65534#16 0#16 0 [] 0xFC10#16).tick.1 = none ∧ (booted []).status = .running := by decide

theorem witness_FaultedIsTerminal :
    ({ State.reset with status := .faulted (.pcOutOfRange 0) } : State).status = .faulted (.pcOutOfRange 0) := by decide

theorem witness_AFailingTickHasNoPartialEffect : ∃ t, step State.reset = .next t ∧ t.status ≠ .running := ⟨_, rfl, by simp [State.takeFatal]⟩

theorem witness_EveryWordHasAMeaning : State.reset.status = .running := by decide

theorem witness_StepRunsTheDecodedInstruction :
    (booted [0xE308#16]).status = .running ∧ (booted [0xE308#16]).prog[(booted [0xE308#16]).pc]? = some 0xE308#16 := by decide

theorem witness_APlacedWordIsRunNext : ({ State.reset with pc := 65535 } : State).pc < 65536 := by decide

/-- A jump taken and a step that only advances. -/
theorem witness_ATrueComputeJumpIsTheOnlyTransfer :
    ((at0 65535#16 0#16 0 [] 0xEA87#16).fetch = some 0xEA87#16 ∧
      ∃ t, step (at0 65535#16 0#16 0 [] 0xEA87#16) = .next t ∧ t.status = .running ∧ t.pc = 65535) ∧
    ((booted [0xEA80#16]).status = .running ∧ (booted [0xEA80#16]).fetch = some 0xEA80#16 ∧
      ∃ t, step (booted [0xEA80#16]) = .next t ∧ t.status = .running ∧ t.pc = 1) :=
  ⟨⟨rfl, _, rfl, rfl, rfl⟩, rfl, rfl, _, rfl, rfl, rfl⟩

theorem witness_ASelfJumpChangesNothing :
    (booted [0xEA87#16]).status = .running ∧ (booted [0xEA87#16]).fetch = some 0xEA87#16 ∧
    (booted [0xEA87#16]).A.toNat = (booted [0xEA87#16]).pc := by decide

theorem witness_NoStepChangesTheInstructionArray : ∃ t, step (booted [0xE308#16]) = .next t := ⟨_, rfl⟩

theorem witness_TheTickIsTheListing :
    (Claim.tickListing (booted [0xFDC8#16])).1 = none ∧
    ({ State.reset with status := .faulted (.pcOutOfRange 0) } : State).status ≠ .running := by decide

theorem witness_EveryStepKeepsTheInvariant : (at0 65534#16 1#16 0 [] 0xE308#16).Inv ∧ ∃ t, step (at0 65534#16 1#16 0 [] 0xE308#16) = .next t :=
  ⟨⟨by decide, by decide, by decide, by decide, by decide⟩, _, rfl⟩

theorem witness_EveryHostOperationKeepsTheInvariant :
    ((⟨24577, true⟩ : Params).wf ∧ ∃ s, State.construct ⟨24577, true⟩ (List.replicate 65536 0#16) = .ok s) ∧
    (at0 65534#16 1#16 0 [] 0xE308#16).Inv ∧
    Reachable ((State.hostStep (booted [0xE308#16]) .tick).hostStep (.setKeyboard 0x41#16)) :=
  ⟨⟨by decide, _, by unfold State.construct; rw [List.length_replicate, if_pos (by decide)]⟩,
    witness_EveryStepKeepsTheInvariant.1, .op _ _ (.op _ _ (.construct ⟨65535, false⟩ [0xE308#16] _ (by decide) rfl))⟩

theorem witness_DisplayChangedIsInvisibleToPrograms :
    (∃ t, step { at0 16384#16 1#16 0 [] 0xE308#16 with displayChanged := false } = .next t) ∧
    (let s : State := { State.reset with status := .faulted (.pcOutOfRange 0) }
     step { s with displayChanged := false } = .fault (.faulted (.pcOutOfRange 0))) := ⟨⟨_, rfl⟩, rfl⟩

theorem witness_OtherCellsDoNotInfluenceAStep :
    Memory.read [(100, 7#16), (101, 9#16)] (at0 100#16 1#16 0 [(100, 7#16)] 0xF088#16).A.toNat =
      (at0 100#16 1#16 0 [(100, 7#16)] 0xF088#16).ram.read (at0 100#16 1#16 0 [(100, 7#16)] 0xF088#16).A.toNat ∧
    ∃ t, step (at0 100#16 1#16 0 [(100, 7#16)] 0xF088#16) = .next t ∧ t.status = .running := ⟨by decide, _, rfl, rfl⟩

theorem witness_ConstructLeavesTheResetState :
    (List.replicate 65536 (0#16 : Word)).length ≤ 65536 ∧ 65536 < (List.replicate 65537 (0#16 : Word)).length := by
  rw [List.length_replicate, List.length_replicate]; decide

theorem witness_TheProgramReadsTheKeyTheHostSet :
    ∃ t, step ((booted [0x6000#16]).setKeyboard 0x41#16) = .next t ∧ t.params.wf ∧ t.A.toNat = 24576 :=
  ⟨_, rfl, by decide, rfl⟩

/-- Parked at 0, and in the loop at each of its two words. -/
theorem witness_AParkedCoreStaysInItsLoop :
    (booted [0x0000#16, 0xEA87#16]).ParkedAt 0 ∧ (booted [0x0000#16, 0xEA87#16]).InParkedLoop 0 ∧
    ({ booted [0x0000#16, 0xEA87#16] with pc := 1 } : State).InParkedLoop 0 :=
  ⟨⟨rfl, rfl, by decide, by decide, rfl, 0xEA87#16, rfl, rfl, rfl, rfl, rfl⟩,
    ⟨rfl, by decide, by decide, rfl, ⟨0xEA87#16, rfl, rfl, rfl, rfl, rfl⟩, .inl rfl⟩,
    ⟨rfl, by decide, by decide, rfl, ⟨0xEA87#16, rfl, rfl, rfl, rfl, rfl⟩, .inr ⟨rfl, rfl⟩⟩⟩

/-- The two words after 32767 others. -/
theorem parkedWord (k : Nat) : (List.replicate 32767 (0#16 : Word) ++ [0x7FFF#16, 0xEA87#16])[32767 + k]? = [0x7FFF#16, 0xEA87#16][k]? := by
  rw [List.getElem?_append_right (by rw [List.length_replicate]; omega), List.length_replicate, Nat.add_sub_cancel_left]

/-- The largest index a core can be parked at. -/
theorem witness_AParkedCoreStaysInItsLoop_at_32767 :
    ({ booted (List.replicate 32767 0#16 ++ [0x7FFF#16, 0xEA87#16]) with pc := 32767 } : State).ParkedAt 32767 :=
  ⟨rfl, rfl, by show _ < (List.replicate 32767 (0#16 : Word) ++ [0x7FFF#16, 0xEA87#16]).length; rw [List.length_append, List.length_replicate]; decide, by decide,
    parkedWord 0, 0xEA87#16, parkedWord 1, rfl, rfl, rfl, rfl⟩

/-- A store, and a store dropped at the keyboard cell. -/
theorem witness_ThePortsDescribeTheMemoryWrite :
    (∃ t, step (at0 100#16 9#16 2 [] 0xE308#16) = .next t) ∧ (∃ t, step (at0 24576#16 9#16 2 [] 0xE308#16) = .next t) :=
  ⟨⟨_, rfl⟩, _, rfl⟩

theorem witness_AssemblingTheFormatGivesTheWord :
    format 0x7FFF#16 = some "@32767".toList ∧ format 0xF0B9#16 = some "AMD=D+M;JGT".toList := ⟨rfl, rfl⟩

theorem witness_OneWordForEveryRealLine : assemble ["(END)".toList, "@END".toList, "0;JMP".toList] = .ok [0x0000#16, 0xEA87#16] := by rfl

/-- A symbol that gets a new variable, one that is found, and the last address of the counter. -/
theorem witness_NewVariablesNeverReuseABuiltInAddress :
    resolve [] [] "foo".toList = .ok (16, [("foo".toList, 16)]) ∧ resolve [] [] "SP".toList = .ok (0, []) ∧
    (isNegativeLiteral "foo".toList = false ∧ parseLiteral "foo".toList = none ∧ lookup "foo".toList builtins = none ∧
      lookup "foo".toList ([] : List (Text × Nat)) = none ∧ variableAddress 32748 < 32767) := by
  refine ⟨?_, ?_, ?_, ?_, ?_, ?_, by decide⟩ <;> rfl

end Sys2Proof.Tests
end

