-- ==== Sys2Proof/Proofs/StateLaws.lean ====
section
/-! SUPPORT. What the operations of a tick leave, one fact for each, on which the proofs about the state rest: the memory after a
store, the fields after a compute word, and that the outcomes of `StepDid` determine the step. -/

namespace Sys2Proof.Machine

/-! ### The memory after a store (R36) -/

theorem State.storedRam_wf {s : State} (toM : Bool) (a : Nat) (v : Word) (h : s.ram.wf) : (s.storedRam toM a v).wf := by
  rw [State.storedRam]
  split
  · exact Memory.write_wf a v h
  · exact h

theorem State.mem_storedRam {s : State} {toM : Bool} {a : Nat} {v : Word} {c : Nat × Word} (h : c ∈ s.storedRam toM a v) :
    (toM = true ∧ c.1 = a) ∨ c ∈ s.ram := by
  rw [State.storedRam] at h
  split at h
  · next hw => exact (Memory.mem_write h).imp_left (fun hc => ⟨hw.1, hc⟩)
  · exact .inr h

theorem State.read_storedRam_other (s : State) (toM : Bool) {a b : Nat} (v : Word) (hb : b ≠ a) :
    (s.storedRam toM a v).read b = s.ram.read b := by
  rw [State.storedRam]
  split
  · exact Memory.read_write_other s.ram v hb
  · rfl

/-- The condition of a store as the one Boolean signal of R23. -/
theorem State.storedRam_eq_ite (s : State) (toM : Bool) (a : Nat) (v : Word) :
    s.storedRam toM a v = if toM && a != kbd then s.ram.write a v else s.ram :=
  if_congr (by simp) rfl rfl

/-- The display bit only rises: where it was set, a store leaves it set (R16). -/
theorem State.storedDisplay_of_set {s : State} (toM : Bool) (a : Nat) (v : Word) (h : s.displayChanged = true) :
    s.storedDisplay toM a v = true := by
  rw [State.storedDisplay, h, Bool.true_or]

/-! ### The fields after a compute word -/

@[simp] theorem State.computed_pc (s : State) (w : Word) : (s.computed w).pc =
    if jumpCond (jumpOf w) (alu (controlOf w) s.D (s.yOf (modeOf w))) then s.ea else s.pc + 1 := rfl
@[simp] theorem State.computed_ram (s : State) (w : Word) : (s.computed w).ram =
    s.storedRam (destOf w).toM s.ea (alu (controlOf w) s.D (s.yOf (modeOf w))) := rfl

/-! ### The fetch and the step -/

theorem State.pc_lt_of_fetch {s : State} {w : Word} (h : s.fetch = some w) : s.pc < s.prog.length :=
  (List.getElem?_eq_some_iff.mp h).1

theorem State.fetch_eq_none {s : State} (h : s.prog.length ≤ s.pc) : s.fetch = none := List.getElem?_eq_none h

theorem step_of_fetch {s : State} {w : Word} (hs : s.status = .running) (hf : s.fetch = some w) :
    step s = exec (decode w) s := by
  simp only [step, hs, hf]

theorem step_of_noWord {s : State} (hs : s.status = .running) (h : s.prog.length ≤ s.pc) :
    step s = .next (s.takeFatal (.pcOutOfRange s.pc)) := by
  simp only [step, hs, State.fetch_eq_none h]

/-- The converse of `step_cases`: from status Running each outcome of `StepDid` is what the step answers. -/
theorem StepDid.step_eq {s t : State} (hs : s.status = .running) (hd : StepDid s t) : step s = .next t := by
  cases hd with
  | noWord h ht => rw [ht, step_of_noWord hs h]
  | address w hf hc ht => rw [ht, step_of_fetch hs hf, exec_decode_address hc]
  | compute w hf hc ha ht => rw [ht, step_of_fetch hs hf, exec_compute_ok hc ha]
  | badAddress w hf hc hw ha ht => rw [ht, step_of_fetch hs hf, exec_compute_bad hc hw ha]
  | invalid w hf hc ht => rw [ht, step_of_fetch hs hf, exec_decode_invalid hc]

/-- Only a state in status Faulted answers a fault, its own error (R226). -/
theorem status_of_step_fault {s : State} {r : Fault} (h : step s = .fault r) : ∃ e, s.status = .faulted e ∧ r = .faulted e := by
  cases hs : s.status with
  | running =>
    obtain ⟨t, ht, -⟩ := step_running hs
    rw [h] at ht
    cases ht
  | faulted e =>
    rw [step_faulted hs] at h
    cases h
    exact ⟨e, rfl, rfl⟩

end Sys2Proof.Machine
end

