-- ==== Sys2Proof/Proofs/Invariant.lean ====
section
/-! PROOFS. The invariant of 10_state.md: after reset, and kept by every step because each of the three things a tick can do to
the state (take an error, load A, compute) keeps it. -/

namespace Sys2Proof.Machine

/-- An error moves only the pc among the fields of the invariant, and the free value is bounded (R13, log 2). -/
theorem State.Inv.takeFatal {s : State} (h : s.Inv) (e : FatalError) : (s.takeFatal e).Inv where
  ramWf := h.ramWf
  ramInRange := h.ramInRange
  pcBound := Nat.le_of_lt_succ (Config.freePc s.draws).isLt
  progBound := h.progBound
  paramsWf := h.paramsWf

theorem State.Inv.advance_setA {s : State} {w : Word} (h : s.Inv) (hf : s.fetch = some w) (v : Word) :
    (s.advance.setA v).Inv where
  ramWf := h.ramWf
  ramInRange := h.ramInRange
  pcBound := Nat.le_trans (State.pc_lt_of_fetch hf) h.progBound
  progBound := h.progBound
  paramsWf := h.paramsWf

/-- The pc becomes a 16-bit address or steps past an existing word; a store lists at most the cell checked to exist. -/
theorem State.Inv.computed {s : State} {w : Word} (h : s.Inv) (hf : s.fetch = some w)
    (ha : touches w → s.ea < s.params.memWords) : (s.computed w).Inv where
  ramWf := State.storedRam_wf _ _ _ h.ramWf
  ramInRange := fun c hc => by
    rcases State.mem_storedRam hc with ⟨htoM, hca⟩ | hc
    · rw [hca]
      exact ha (.inr htoM)
    · exact h.ramInRange c hc
  pcBound := by
    rw [State.computed_pc]
    split
    · exact Nat.le_of_lt s.A.isLt
    · exact Nat.le_trans (State.pc_lt_of_fetch hf) h.progBound
  progBound := h.progBound
  paramsWf := h.paramsWf

/-- Settles O45, by the outcomes of a step. -/
theorem everyStepKeepsTheInvariant : Obligations.EveryStepKeepsTheInvariant := by
  intro s t hinv hstep
  obtain ⟨-, hdid⟩ := step_cases hstep
  cases hdid with
  | noWord _ ht => exact ht ▸ hinv.takeFatal _
  | address w hf _ ht => exact ht ▸ hinv.advance_setA hf _
  | compute w hf _ ha ht => exact ht ▸ hinv.computed hf ha
  | badAddress w _ _ _ _ ht => exact ht ▸ hinv.takeFatal _
  | invalid w _ _ ht => exact ht ▸ hinv.takeFatal _

/-- Settles O44: no cell is listed, and the bounds are those of the fixed reset values. -/
theorem resetMeetsTheInvariant : Obligations.ResetMeetsTheInvariant where
  ramWf := Memory.nil_wf
  ramInRange := fun _ hc => absurd hc List.not_mem_nil
  pcBound := Nat.zero_le _
  progBound := Nat.zero_le _
  paramsWf := by decide

end Sys2Proof.Machine
end

