-- ==== Sys2Proof/Proofs/Construct.lean ====
section
/-! PROOFS. The state after construction (R21, R250, R251). -/

namespace Sys2Proof.Machine

theorem State.construct_ok (p : Params) {prog : List Word} (h : prog.length ≤ 65536) :
    State.construct p prog = .ok { State.reset with prog := prog, params := p } := if_pos h

theorem State.construct_tooLong (p : Params) {prog : List Word} (h : 65536 < prog.length) :
    State.construct p prog = .error (.programTooLong prog.length) := if_neg (Nat.not_le.mpr h)

/-- Settles O49, by the two cases of the length; the state constructed is the reset state with its array and parameters. -/
theorem constructLeavesTheResetState : Obligations.ConstructLeavesTheResetState := by
  refine ⟨fun p prog h => ⟨_, State.construct_ok p h, ?_⟩, fun p prog h => State.construct_tooLong p h,
    State.construct_ok { } (Nat.zero_le _)⟩
  exact ⟨rfl, rfl, rfl, Memory.read_nil, rfl, rfl, rfl, rfl⟩

end Sys2Proof.Machine
end

