-- ==== Sys2Proof/Proofs/MemoryFrame.lean ====
section
/-! PROOFS. What a step does to memory: at most the cell at the old A changes (R15, R34), and the write is the one the ports
announce (R23). -/

namespace Sys2Proof.Machine

/-- Settles O30: only a compute word stores, and it stores at the old A. -/
theorem aStepChangesAtMostTheCellAtA : Obligations.AStepChangesAtMostTheCellAtA := by
  intro s t hstep a ha
  obtain ⟨-, hdid⟩ := step_cases hstep
  cases hdid with
  | noWord _ ht => rw [ht, State.takeFatal_ram]
  | address w _ _ ht => rw [ht, State.setA_ram, State.advance_ram]
  | compute w _ _ _ ht =>
    rw [ht, State.computed_ram]
    exact State.read_storedRam_other s _ _ ha
  | badAddress w _ _ _ _ ht => rw [ht, State.takeFatal_ram]
  | invalid w _ _ ht => rw [ht, State.takeFatal_ram]

/-! ### The ports of a running state -/

/-- The write enable by the word fetched; none where no word exists. -/
theorem State.ports_dwe {s : State} (hs : s.status = .running) {w : Word} (hf : s.fetch = some w) :
    s.ports.dwe = (classify w == .compute && (destOf w).toM && !s.badAccess w && s.ea != kbd) := by
  simp only [State.ports, hs, hf]

theorem State.ports_dwe_of_noWord {s : State} (h : s.prog.length ≤ s.pc) : s.ports.dwe = false := by
  cases hs : s.status <;> simp only [State.ports, hs, State.fetch_eq_none h]

theorem State.ports_daddr (s : State) : s.ports.daddr = s.A := by
  cases hs : s.status <;> cases hf : s.fetch <;> simp only [State.ports, hs, hf]

theorem State.portY_eq_yOf (s : State) (w : Word) : s.portY w = s.yOf (modeOf w) := by
  cases hm : modeOf w <;> simp only [State.portY, State.yOf, hm]

theorem State.ports_dwdata {s : State} (hs : s.status = .running) {w : Word} (hf : s.fetch = some w) :
    s.ports.dwdata = alu (controlOf w) s.D (s.yOf (modeOf w)) := by
  simp only [State.ports, hs, hf, State.portY_eq_yOf]

theorem State.badAccess_eq_true {s : State} {w : Word} (hw : touches w) (ha : s.params.memWords ≤ s.ea) :
    s.badAccess w = true := by
  simpa [State.badAccess, ha, touches] using hw

theorem State.badAccess_eq_false {s : State} {w : Word} (h : touches w → s.ea < s.params.memWords) :
    s.badAccess w = false := by
  simpa [State.badAccess, touches] using h

/-- Settles O53: the write enable is high just where a compute word stores, and then address and data are the store's. -/
theorem thePortsDescribeTheMemoryWrite : Obligations.ThePortsDescribeTheMemoryWrite := by
  intro s t hstep
  obtain ⟨hs, hdid⟩ := step_cases hstep
  cases hdid with
  | noWord h ht => simp [ht, State.ports_dwe_of_noWord h]
  | address w hf hc ht => simp [ht, State.ports_dwe hs hf, hc]
  | compute w hf hc ha ht =>
    have hdwe : s.ports.dwe = ((destOf w).toM && s.ea != kbd) := by
      simp [State.ports_dwe hs hf, hc, State.badAccess_eq_false ha]
    rw [ht, hdwe, State.ports_daddr, State.ports_dwdata hs hf]
    exact State.storedRam_eq_ite s _ s.ea _
  | badAddress w hf _ hw ha ht => simp [ht, State.ports_dwe hs hf, State.badAccess_eq_true hw ha]
  | invalid w hf hc ht => simp [ht, State.ports_dwe hs hf, hc]

end Sys2Proof.Machine
end

