-- ==== Sys2Proof/Proofs/DisplayBit.lean ====
section
/-! PROOFS. Display-changed cannot be seen by a program (R16, R19): no outcome of a step reads it, so each commutes with setting
it. -/

namespace Sys2Proof.Machine

/-- A compute word on a core with the bit set leaves what it leaves otherwise, with the bit set. -/
theorem State.computed_displaySet (s : State) (w : Word) :
    ({ s with displayChanged := true } : State).computed w = { s.computed w with displayChanged := true } := by
  simp only [State.computed, State.storedDisplay_of_set]
  rfl

/-- What a step did is also what it does on a core with the bit set. -/
theorem StepDid.displaySet {s t : State} (hd : StepDid s t) :
    StepDid { s with displayChanged := true } { t with displayChanged := true } := by
  cases hd with
  | noWord h ht => exact .noWord h (ht ▸ rfl)
  | address w hf hc ht => exact .address w hf hc (ht ▸ rfl)
  | compute w hf hc ha ht => exact .compute w hf hc ha (ht ▸ (State.computed_displaySet s w).symm)
  | badAddress w hf hc hw ha ht => exact .badAddress w hf hc hw ha (ht ▸ rfl)
  | invalid w hf hc ht => exact .invalid w hf hc (ht ▸ rfl)

/-- Settles O47: a next state by `StepDid.displaySet`; a fault depends on the status alone. -/
theorem displayChangedIsInvisibleToPrograms : Obligations.DisplayChangedIsInvisibleToPrograms := by
  constructor
  · intro s t hstep
    obtain ⟨hs, hdid⟩ := step_cases hstep
    exact hdid.displaySet.step_eq hs
  · intro s r hstep
    obtain ⟨e, hs, rfl⟩ := status_of_step_fault hstep
    exact step_faulted hs

end Sys2Proof.Machine
end

