-- ==== Sys2Proof/Proofs/MemoryLaws.lean ====
section
/-! PROOFS. The data memory by itself: a canonical memory is determined by what it reads (R32, log 5), and MemWrite is as R36 and
R41 list it. -/

namespace Sys2Proof.Machine

/-! ### Canonical memories -/

theorem Memory.mem_of_read_ne {m : Memory} {a : Nat} (h : m.read a ≠ Memory.unlisted) : (a, m.read a) ∈ m := by
  induction m with
  | nil => exact absurd (Memory.read_nil a) h
  | cons c m ih =>
    rw [Memory.read_cons] at h ⊢
    split at h
    · next hac => rw [if_pos hac, hac]; exact List.mem_cons_self
    · next hac => rw [if_neg hac]; exact List.mem_cons_of_mem c (ih h)

/-- In rising order an address is listed once, so the cell listed for it is the one read. -/
theorem Memory.read_of_mem {m : Memory} (hm : m.wf) {c : Nat × Word} (hc : c ∈ m) : m.read c.1 = c.2 := by
  induction m with
  | nil => exact absurd hc List.not_mem_nil
  | cons d m ih =>
    obtain ⟨hsorted, hlisted⟩ := hm
    obtain ⟨hd, hsorted⟩ := List.pairwise_cons.mp hsorted
    rw [Memory.read_cons]
    rcases List.mem_cons.mp hc with rfl | hc
    · exact if_pos rfl
    · rw [if_neg (Nat.ne_of_gt (hd c hc))]
      exact ih ⟨hsorted, fun e he => hlisted e (List.mem_cons_of_mem d he)⟩ hc

/-- The cells a canonical memory lists are those that read other than an unlisted one. -/
theorem Memory.mem_iff_read {m : Memory} (hm : m.wf) (c : Nat × Word) :
    c ∈ m ↔ m.read c.1 = c.2 ∧ c.2 ≠ Memory.unlisted := by
  constructor
  · exact fun hc => ⟨Memory.read_of_mem hm hc, hm.2 c hc⟩
  · rintro ⟨hread, hne⟩
    have hmem := Memory.mem_of_read_ne (hread ▸ hne)
    rwa [hread] at hmem

/-- Settles O26: the two lists have the same members by `Memory.mem_iff_read`, and two lists in strictly rising order with the same
members are equal. -/
theorem canonicalMemoriesAreEqualWhenTheyReadEqual : Obligations.CanonicalMemoriesAreEqualWhenTheyReadEqual := by
  intro m n hm hn hread
  have : Std.Irrefl (fun p q : Nat × Word => p.1 < q.1) := ⟨fun p => Nat.lt_irrefl p.1⟩
  have : Std.Antisymm (fun p q : Nat × Word => p.1 < q.1) := ⟨fun _ _ hpq hqp => absurd hpq (Nat.lt_asymm hqp)⟩
  refine hm.1.eq_of_mem_iff hn.1 fun c => ?_
  rw [Memory.mem_iff_read hm, Memory.mem_iff_read hn, hread]

/-! ### MemWrite (R36) -/

theorem inScreen_eq (a : Nat) : inScreen a = decide (16384 ≤ a ∧ a ≤ 24575) := by
  rw [inScreen, ← Bool.decide_and, decide_eq_decide]
  exact and_congr_right fun _ => Nat.lt_succ_iff

/-- The report of R41 as a statement about the address and the value. -/
theorem State.displayReport_eq (s : State) (a : Nat) (v : Word) : s.displayReport a v =
    decide (16384 ≤ a ∧ a ≤ 24575 ∧ (s.params.skipRedundantScreenWrites = true → s.ram.read a ≠ v)) := by
  rw [State.displayReport, inScreen_eq]
  cases s.params.skipRedundantScreenWrites <;> simp [Bool.and_assoc, Bool.beq_eq_decide_eq]

theorem State.memWrite_bad {s : State} {idx a : Nat} {w v : Word} (h : s.params.memWords ≤ a) :
    s.memWrite idx w a v = .error (.addressOutOfRange idx w a) := if_pos h

theorem State.memWrite_kbd {s : State} {idx : Nat} {w v : Word} (h : kbd < s.params.memWords) :
    s.memWrite idx w kbd v = .ok s := by
  rw [State.memWrite, if_neg (Nat.not_le.mpr h), if_pos rfl]

theorem State.memWrite_ok {s : State} {idx a : Nat} {w v : Word} (h : a < s.params.memWords) (hk : a ≠ kbd) :
    s.memWrite idx w a v =
      .ok { s with ram := s.ram.write a v, displayChanged := s.displayChanged || s.displayReport a v } := by
  rw [State.memWrite, if_neg (Nat.not_le.mpr h), if_neg hk]

/-- Settles O25, by the three branches of MemWrite. -/
theorem memWriteAsListed : Obligations.MemWriteAsListed := by
  intro s idx w a v
  refine ⟨State.memWrite_bad, fun h ha => ?_, fun h ha => ⟨_, State.memWrite_ok h ha, ?_⟩⟩
  · subst ha
    exact State.memWrite_kbd h
  · refine ⟨Memory.read_write_same _ _ _, fun b hb => Memory.read_write_other _ _ hb, rfl, fun hp => ?_, fun hp => ?_⟩ <;>
      simp [State.displayReport_eq, hp]

end Sys2Proof.Machine
end

