-- ==== Sys2Proof/Proofs/MemoryStores.lean ====
section
/-! PROOFS. Loads and stores of compute words in the terms of the statements: what is left at the cell at A, the keyboard cell
(R39), the display report (R41), and the load after a store (R44). -/

namespace Sys2Proof.Machine

/-! ### The cell a store addresses -/

theorem State.read_storedRam_same (s : State) (toM : Bool) (a : Nat) (v : Word) :
    (s.storedRam toM a v).read a = if toM = true ∧ a ≠ kbd then v else s.ram.read a := by
  rw [State.storedRam]
  split
  · exact Memory.read_write_same s.ram a v
  · rfl

/-- No store reaches the keyboard cell (R39). -/
theorem State.read_storedRam_kbd (s : State) (toM : Bool) (a : Nat) (v : Word) :
    (s.storedRam toM a v).read kbd = s.ram.read kbd := by
  by_cases ha : kbd = a
  · rw [← ha, State.read_storedRam_same, if_neg (fun h => h.2 rfl)]
  · exact State.read_storedRam_other s toM v ha

/-! ### A compute word in the terms of the statements -/

/-- The three tests of R190, one for each bit of the code, are its truth table. -/
theorem jumpCond_eq_jumpHolds (j : Jump) (v : Word) : jumpCond j v = Claim.jumpHolds j v := by
  rw [Bool.eq_iff_iff]
  cases j <;> simp [jumpCond, Jump.bits, Claim.jumpHolds, Word.signed] <;> omega

theorem State.yOf_eq_operand (s : State) (mode : Mode) : s.yOf mode = Claim.operand mode s := by
  cases mode <;> rfl

theorem State.displayReport_eq_reports (s : State) (v : Word) : s.displayReport s.ea v = Claim.reports s v := by
  rw [State.displayReport_eq, Claim.reports, decide_eq_decide, not_and]
  rfl

/-- The keyboard cell lies past the screen region, so a store dropped there had nothing to report. -/
theorem State.storedDisplay_eq (s : State) (toM : Bool) (a : Nat) (v : Word) :
    s.storedDisplay toM a v = (s.displayChanged || (toM && s.displayReport a v)) := by
  rw [State.storedDisplay]
  by_cases ha : a = kbd
  · have hkbd : s.displayReport kbd v = false := by simp [State.displayReport_eq]
    rw [ha, hkbd, Bool.and_false, Bool.and_false]
  · rw [bne_iff_ne.mpr ha, Bool.and_true]

/-- The proofs' form of the state after a compute word is the statements' form. -/
theorem State.computed_eq_afterCompute (s : State) (w : Word) :
    s.computed w = Claim.afterCompute s (Claim.compOf w s) (destOf w) (jumpOf w) := by
  rw [State.computed, State.yOf_eq_operand, jumpCond_eq_jumpHolds, State.storedDisplay_eq, State.displayReport_eq_reports]
  rfl

theorem exec_compute_eq_afterCompute {w : Word} {s : State} (hc : classify w = .compute) (ha : Claim.accessOk w s) :
    exec (decode w) s = .next (Claim.afterCompute s (Claim.compOf w s) (destOf w) (jumpOf w)) := by
  rw [exec_compute_ok hc ha, State.computed_eq_afterCompute]

/-- Settles O29: the display bit of `Claim.afterCompute`, with its conditions in one. -/
theorem screenWritesReport : Obligations.ScreenWritesReport := by
  intro w s hc ha
  refine ⟨_, exec_compute_eq_afterCompute hc ha, ?_⟩
  show (s.displayChanged || ((destOf w).toM && Claim.reports s (Claim.compOf w s))) = _
  simp only [Claim.reports, Bool.decide_and, Bool.decide_eq_true, not_and, ne_eq]

/-! ### The keyboard cell (R39, R43) -/

/-- Of all a step can do, only a compute word writes memory, and not the keyboard cell. -/
theorem step_keeps_kbd {s t : State} (h : step s = .next t) : t.ram.read kbd = s.ram.read kbd := by
  obtain ⟨-, hdid⟩ := step_cases h
  cases hdid with
  | noWord _ ht => rw [ht, State.takeFatal_ram]
  | address w _ _ ht => rw [ht, State.setA_ram, State.advance_ram]
  | compute w _ _ _ ht => rw [ht, State.computed_ram, State.read_storedRam_kbd]
  | badAddress w _ _ _ _ ht => rw [ht, State.takeFatal_ram]
  | invalid w _ _ ht => rw [ht, State.takeFatal_ram]

/-- Settles O28: the step by `step_keeps_kbd`; at the keyboard cell `Claim.afterCompute` neither stores nor reports. -/
theorem keyboardCellIsReadOnlyToPrograms : Obligations.KeyboardCellIsReadOnlyToPrograms := by
  refine ⟨fun s t h => step_keeps_kbd h, fun w s hc hM hp hA => ?_⟩
  have hreports : Claim.reports s (Claim.compOf w s) = false := by simp [Claim.reports, hA]
  rw [exec_compute_eq_afterCompute hc (fun _ => hA ▸ hp)]
  simp [Claim.afterCompute, hM, hA, hreports]

/-! ### `M=D` and `D=M` -/

/-- The pattern of `D` (R132) drops y, the pattern of `A` and `M` (R168) drops x. -/
theorem alu_x (x y : Word) : alu 0b001100#6 x y = x := by
  show x &&& ~~~0#16 = x
  rw [BitVec.not_zero, BitVec.and_allOnes]

theorem alu_y (x y : Word) : alu 0b110000#6 x y = y := by
  show ~~~0#16 &&& y = y
  rw [BitVec.not_zero, BitVec.allOnes_and]

theorem exec_storeD {s : State} (h : s.ea < s.params.memWords) : exec (.compD ⟨true, false, false⟩ .never) s =
    .next { s with pc := s.pc + 1, ram := s.storedRam true s.ea s.D, displayChanged := s.storedDisplay true s.ea s.D } := by
  show computeTick .aMode 0b001100#6 _ _ s = _
  rw [computeTick_ok _ _ (fun _ => h), alu_x]
  rfl

theorem exec_loadD {s : State} (h : s.ea < s.params.memWords) : exec (.compM ⟨false, true, false⟩ .never) s =
    .next { s with pc := s.pc + 1, D := s.ram.read s.ea } := by
  show computeTick .mMode 0b110000#6 _ _ s = _
  rw [computeTick_ok _ _ (fun _ => h), alu_y, State.storedDisplay_eq, Bool.false_and, Bool.or_false]
  rfl

/-- Settles O27: the load reads the cell at the same A, where the store put the old D. -/
theorem storeThenLoadReturnsTheValue : Obligations.StoreThenLoadReturnsTheValue := by
  intro s x h hk
  refine ⟨_, _, exec_storeD h, exec_loadD h, ?_, rfl⟩
  show (s.storedRam true s.ea s.D).read s.ea = s.D
  rw [State.read_storedRam_same, if_pos ⟨rfl, hk⟩]

/-- Settles O51: the step keeps the keyboard cell the host wrote, and `D=M` loads it. -/
theorem theProgramReadsTheKeyTheHostSet : Obligations.TheProgramReadsTheKeyTheHostSet := by
  intro s t v hstep hp hA
  have hea : t.ea = kbd := hA
  refine ⟨_, exec_loadD (hea ▸ hp), ?_⟩
  calc t.ram.read t.ea = t.ram.read kbd := by rw [hea]
    _ = (s.setKeyboard v).ram.read kbd := step_keeps_kbd hstep
    _ = v := Memory.read_write_same s.ram kbd v

end Sys2Proof.Machine
end

