-- ==== Sys2Proof/Proofs/StepFrame.lean ====
section
/-! PROOFS. What a step does not touch and does not see: the instruction array and the parameters are never written (R14, R46), and
no cell but the one at A is read (R34, R42). -/

namespace Sys2Proof.Machine

@[simp] theorem State.computed_prog (s : State) (w : Word) : (s.computed w).prog = s.prog := rfl
@[simp] theorem State.computed_params (s : State) (w : Word) : (s.computed w).params = s.params := rfl

theorem StepDid.prog_params {s t : State} (hd : StepDid s t) : t.prog = s.prog ∧ t.params = s.params := by
  cases hd with
  | noWord _ ht => simp [ht]
  | address w _ _ ht => simp [ht]
  | compute w _ _ _ ht => simp [ht]
  | badAddress w _ _ _ _ ht => simp [ht]
  | invalid w _ _ ht => simp [ht]

/-- Settles O42, by the outcomes of a step. -/
theorem noStepChangesTheInstructionArray : Obligations.NoStepChangesTheInstructionArray := by
  intro s t hstep
  obtain ⟨-, hdid⟩ := step_cases hstep
  obtain ⟨hprog, hparams⟩ := hdid.prog_params
  exact ⟨fun n => by rw [hprog], hprog, hparams⟩

/-! ### Two memories that agree on the cell at A -/

section
variable {s : State} {m : Memory} {a : Nat}

theorem State.yOf_withRam (h : m.read s.ea = s.ram.read s.ea) (mode : Mode) :
    ({ s with ram := m } : State).yOf mode = s.yOf mode := by
  cases mode with
  | aMode => rfl
  | mMode => exact h

theorem State.storedDisplay_withRam (h : m.read a = s.ram.read a) (toM : Bool) (v : Word) :
    ({ s with ram := m } : State).storedDisplay toM a v = s.storedDisplay toM a v := by
  simp only [State.storedDisplay, State.displayReport, h]

theorem State.read_storedRam_withRam (h : m.read a = s.ram.read a) (toM : Bool) (v : Word) :
    (({ s with ram := m } : State).storedRam toM a v).read a = (s.storedRam toM a v).read a := by
  rw [State.read_storedRam_same, State.read_storedRam_same, h]

/-- The value computed is the same, so only the memory stored into differs. -/
theorem State.computed_withRam (h : m.read s.ea = s.ram.read s.ea) (w : Word) :
    ({ s with ram := m } : State).computed w = { s.computed w with
      ram := ({ s with ram := m } : State).storedRam (destOf w).toM s.ea (alu (controlOf w) s.D (s.yOf (modeOf w))) } := by
  simp only [State.computed, State.yOf_withRam h]
  congr 1
  exact State.storedDisplay_withRam h _ _

/-- What a step did is also what it does on another memory with the same cell at A, up to the memory, and that cell is again the
same. -/
theorem StepDid.withRam {t : State} (hd : StepDid s t) (h : m.read s.ea = s.ram.read s.ea) :
    ∃ m', StepDid { s with ram := m } { t with ram := m' } ∧ m'.read s.ea = t.ram.read s.ea := by
  cases hd with
  | noWord hn ht => exact ⟨m, .noWord hn (ht ▸ rfl), ht ▸ h⟩
  | address w hf hc ht => exact ⟨m, .address w hf hc (ht ▸ rfl), ht ▸ h⟩
  | compute w hf hc ha ht =>
    exact ⟨_, .compute w hf hc ha (ht ▸ (State.computed_withRam h w).symm), ht ▸ State.read_storedRam_withRam h _ _⟩
  | badAddress w hf hc hw ha ht => exact ⟨m, .badAddress w hf hc hw ha (ht ▸ rfl), ht ▸ h⟩
  | invalid w hf hc ht => exact ⟨m, .invalid w hf hc (ht ▸ rfl), ht ▸ h⟩

end

/-- Settles O48: by `StepDid.withRam` the other core's step differs in the memory alone. -/
theorem otherCellsDoNotInfluenceAStep : Obligations.OtherCellsDoNotInfluenceAStep := by
  intro s t m h hstep
  obtain ⟨hs, hdid⟩ := step_cases hstep
  obtain ⟨m', hdid', hread⟩ := hdid.withRam h
  exact ⟨_, hdid'.step_eq hs, rfl, rfl, fun _ => rfl, rfl, rfl, hread⟩

end Sys2Proof.Machine
end

