-- ==== Sys2Proof/Proofs/WordClasses.lean ====
section
/-! PROOFS. The three classes of a word as statements about its three high bits, and from them the masks and the ranges of R51 and
the laws of the constructors (R57 to R59). -/

namespace Sys2Proof

theorem classify_address_iff (w : Word) : classify w = .address ↔ w.getLsbD 15 = false := by
  unfold classify
  cases w.getLsbD 15 <;> cases w.getLsbD 14 <;> cases w.getLsbD 13 <;> simp

theorem classify_compute_iff (w : Word) :
    classify w = .compute ↔ w.getLsbD 15 = true ∧ w.getLsbD 14 = true ∧ w.getLsbD 13 = true := by
  unfold classify
  cases w.getLsbD 15 <;> cases w.getLsbD 14 <;> cases w.getLsbD 13 <;> simp

theorem classify_invalid_iff (w : Word) : classify w = .invalid ↔ classify w ≠ .address ∧ classify w ≠ .compute := by
  cases classify w <;> simp

/-! ### Ranges -/

theorem getLsbD_eq_decide (w : Word) (i : Nat) : w.getLsbD i = decide (w.toNat / 2 ^ i % 2 = 1) :=
  Nat.testBit_eq_decide_div_mod_eq

theorem classify_address_iff_lt (w : Word) : classify w = .address ↔ w.toNat < 0x8000 := by
  rw [classify_address_iff, getLsbD_eq_decide, decide_eq_false_iff_not]
  have := w.isLt
  omega

theorem classify_compute_iff_le (w : Word) : classify w = .compute ↔ 0xE000 ≤ w.toNat := by
  simp only [classify_compute_iff, getLsbD_eq_decide, decide_eq_true_eq]
  have := w.isLt
  omega

theorem classify_invalid_iff_range (w : Word) : classify w = .invalid ↔ 0x8000 ≤ w.toNat ∧ w.toNat ≤ 0xDFFF := by
  rw [classify_invalid_iff, Ne, Ne, classify_address_iff_lt, classify_compute_iff_le]
  omega

/-! ### Masks -/

theorem and_8000_eq_zero_iff (w : Word) : w &&& 0x8000#16 = 0x0000#16 ↔ w.getLsbD 15 = false := by
  constructor
  · intro h
    simpa using congrArg (BitVec.getLsbD · 15) h
  · intro h
    apply BitVec.eq_of_getLsbD_eq
    intro i hi
    rcases Nat.lt_succ_iff_lt_or_eq.mp hi with hlow | rfl
    · interval_cases i <;> simp
    · simpa using h

theorem and_E000_eq_iff (w : Word) :
    w &&& 0xE000#16 = 0xE000#16 ↔ w.getLsbD 15 = true ∧ w.getLsbD 14 = true ∧ w.getLsbD 13 = true := by
  constructor
  · intro h
    exact ⟨by simpa using congrArg (BitVec.getLsbD · 15) h, by simpa using congrArg (BitVec.getLsbD · 14) h,
      by simpa using congrArg (BitVec.getLsbD · 13) h⟩
  · rintro ⟨h15, h14, h13⟩
    apply BitVec.eq_of_getLsbD_eq
    intro i hi
    interval_cases i <;> simp [h15, h14, h13]

/-- Settles O4: each mask and each range says which of the three high bits are set. -/
theorem classesByMaskAndRange : Obligations.ClassesByMaskAndRange := fun w =>
  ⟨(classify_address_iff w).trans (and_8000_eq_zero_iff w).symm, classify_address_iff_lt w,
    (classify_compute_iff w).trans (and_E000_eq_iff w).symm, classify_compute_iff_le w, classify_invalid_iff_range w⟩

/-! ### The constructors -/

theorem constructAddress_toNat (v : Word) : (constructAddress v).toNat = v.toNat % 32768 :=
  (BitVec.toNat_and _ _).trans (Nat.and_two_pow_sub_one_eq_mod v.toNat 15)

theorem constructAddress_of_lt {v : Word} (h : v.toNat < 32768) : constructAddress v = v :=
  BitVec.eq_of_toNat_eq ((constructAddress_toNat v).trans (Nat.mod_eq_of_lt h))

/-- Settles O6, by the value of a constructed word: the argument's, less 32768 where the sign bit was set. -/
theorem constructAddressClearsTheSignBit : Obligations.ConstructAddressClearsTheSignBit := by
  intro v
  refine ⟨rfl, classify_constructAddress v, fun hv => ?_, fun hv => ?_⟩
  · have hlt : v.toNat < 32768 := by rw [BitVec.toInt_eq_toNat_cond] at hv; omega
    exact constructAddress_of_lt hlt
  · have hle : 32768 ≤ v.toNat := by rw [BitVec.toInt_eq_toNat_cond] at hv; omega
    have hval : (constructAddress v).toNat = v.toNat - 32768 := by
      rw [constructAddress_toNat]
      have := v.isLt
      omega
    refine ⟨fun h => ?_, hval⟩
    rw [h] at hval
    omega

/-- Settles O5, by the read-back laws of the two constructors. -/
theorem constructedFieldsReadBack : Obligations.ConstructedFieldsReadBack := by
  refine ⟨fun d c7 j => ⟨rfl, destBitsOf_constructCompute d c7 j, comp7Of_constructCompute d c7 j,
    jumpBitsOf_constructCompute d c7 j, classify_constructCompute d c7 j⟩, fun v hv => ⟨classify_constructAddress v, ?_⟩⟩
  rw [constructAddress_of_lt (Nat.lt_succ_of_le hv), BitVec.extractLsb'_toNat, Nat.shiftRight_zero]
  exact Nat.mod_eq_of_lt (Nat.lt_succ_of_le hv)

end Sys2Proof
end

