-- ==== Sys2Proof/Proofs/RoundTrip.lean ====
section
/-! PROOFS. The decoder and the encoder are inverse to each other (R51, R61, R68). Compute words go through one function,
`computeInstr`: the instruction the decoder's two tables give for comp7. -/

namespace Sys2Proof

open Sys2Proof.Machine

/-! ### Words of class address and invalid -/

theorem decode_of_address {w : Word} (h : classify w = .address) : decode w = .addressValue w := by
  unfold decode
  rw [h]

theorem wf_of_address {w : Word} (h : classify w = .address) : WellFormed (.addressValue w) := by
  rw [WellFormed, Instr.wf, (classify_address_iff w).mp h, Bool.not_false]

theorem classify_of_wf {v : Word} (h : WellFormed (.addressValue v)) : classify v = .address := by
  rw [classify_address_iff]
  simpa only [WellFormed, Instr.wf, Bool.not_eq_true'] using h

theorem constructAddress_of_address {w : Word} (h : classify w = .address) : constructAddress w = w :=
  constructAddress_of_lt ((classify_address_iff_lt w).mp h)

/-- The decoder on a word of class invalid whose high bits are known. -/
theorem decode_invalidWord {high : BitVec 3} {low : BitVec 13} (h : classify (invalidWord high low) = .invalid) :
    decode (invalidWord high low) =
      bif high.getLsbD 1 then .illegal110 low else bif high.getLsbD 0 then .illegal101 low else .illegal100 low := by
  have h14 : (invalidWord high low).getLsbD 14 = high.getLsbD 1 := BitVec.getLsbD_append
  have h13 : (invalidWord high low).getLsbD 13 = high.getLsbD 0 := BitVec.getLsbD_append
  have hlow : (invalidWord high low).extractLsb' 0 13 = low := BitVec.extractLsb'_append_eq_right
  unfold decode
  rw [h, h14, h13, hlow]
  cases high.getLsbD 1 <;> cases high.getLsbD 0 <;> rfl

/-! ### Compute instructions by mode and pattern -/

/-- The compute instruction of comp7 = a ++ c (R54): a chooses the table, c the row. -/
def computeInstr (c7 : BitVec 7) (dest : Dest) (jump : Jump) : Instr :=
  if c7.getLsbD 6 then decodeMMode (c7.extractLsb' 0 6) dest jump else decodeAMode (c7.extractLsb' 0 6) dest jump

theorem decode_constructCompute (d : BitVec 3) (c7 : BitVec 7) (j : BitVec 3) :
    decode (constructCompute d c7 j) = computeInstr c7 (Dest.ofBits d) (Jump.ofBits j) := by
  unfold decode
  rw [classify_constructCompute, modeOf_constructCompute, controlOf_constructCompute, destOf, jumpOf,
    destBitsOf_constructCompute, jumpBitsOf_constructCompute, computeInstr]
  cases c7.getLsbD 6 <;> rfl

theorem decode_constructCompute_bits (c7 : BitVec 7) (dest : Dest) (jump : Jump) :
    decode (constructCompute dest.bits c7 jump.bits) = computeInstr c7 dest jump := by
  rw [decode_constructCompute, Dest.ofBits_bits, Jump.ofBits_bits]

/-- A statement about the 128 values of comp7, one by one. -/
theorem forall_comp7 {P : BitVec 7 → Prop} (h : ∀ n, n < 128 → P (BitVec.ofNat 7 n)) (c7 : BitVec 7) : P c7 := by
  have := h c7.toNat c7.isLt
  rwa [BitVec.ofNat_toNat, BitVec.setWidth_eq] at this

theorem wf_computeInstr (c7 : BitVec 7) (dest : Dest) (jump : Jump) : WellFormed (computeInstr c7 dest jump) := by
  refine forall_comp7 (P := fun c7 => WellFormed (computeInstr c7 dest jump)) (fun n hn => ?_) c7
  interval_cases n <;> rfl

theorem encode_computeInstr (c7 : BitVec 7) (dest : Dest) (jump : Jump) :
    encode (computeInstr c7 dest jump) = constructCompute dest.bits c7 jump.bits := by
  refine forall_comp7 (P := fun c7 => encode (computeInstr c7 dest jump) = constructCompute dest.bits c7 jump.bits)
    (fun n hn => ?_) c7
  interval_cases n <;> rfl

theorem decode_of_compute {w : Word} (h : classify w = .compute) :
    decode w = computeInstr (comp7Join (modeOf w) (controlOf w)) (destOf w) (jumpOf w) := by
  conv_lhs => rw [← word_of_fields h]
  exact decode_constructCompute_bits _ _ _

/-- Settles O1: a compute instruction of any constructor is the one the decoder's tables give its comp7; the constant of an address
instruction has bit 15 clear; the invalid words are their high and low bits. -/
theorem decodeOfEncodeIsTheInstruction : Obligations.DecodeOfEncodeIsTheInstruction := by
  intro i hi
  cases i with
  | addressValue v =>
    have hv := classify_of_wf hi
    rw [encode, constructAddress_of_address hv, decode_of_address hv]
  | illegal100 low => exact decode_invalidWord (classify_invalid100 low)
  | illegal101 low => exact decode_invalidWord (classify_invalid101 low)
  | illegal110 low => exact decode_invalidWord (classify_invalid110 low)
  | _ dest jump => exact decode_constructCompute_bits _ dest jump

/-- Settles O2, by the three classes: the fields of a compute word and the low bits of an invalid word rebuild it. -/
theorem encodeOfDecodeIsTheWord : Obligations.EncodeOfDecodeIsTheWord := by
  intro w
  cases hc : classify w with
  | address =>
    rw [decode_of_address hc]
    exact ⟨wf_of_address hc, constructAddress_of_address hc⟩
  | compute =>
    rw [decode_of_compute hc, encode_computeInstr]
    exact ⟨wf_computeInstr _ _ _, word_of_fields hc⟩
  | invalid =>
    obtain ⟨hd, hw⟩ | ⟨hd, hw⟩ | ⟨hd, hw⟩ := decode_invalid hc <;> rw [hd] <;> exact ⟨rfl, hw.symm⟩

/-! ### Equal instructions -/

/-- c = 001010 computes D as x + 0, c = 001100 as x & 1111 (R130, R132). -/
theorem alu_001010 (x y : Word) : alu 0b001010#6 x y = x := by
  show x + 0#16 = x
  exact BitVec.add_zero x

theorem encode_uA001010_ne_compD (dest : Dest) (jump : Jump) : encode (.uA001010 dest jump) ≠ encode (.compD dest jump) := by
  intro h
  have hc7 := congrArg comp7Of h
  rw [encode, encode, comp7Of_constructCompute, comp7Of_constructCompute] at hc7
  exact absurd hc7 (by decide)

theorem exec_uA001010_eq_compD {s : State} (h : s.ea < s.params.memWords) (dest : Dest) (jump : Jump) :
    exec (.uA001010 dest jump) s = exec (.compD dest jump) s := by
  show computeTick .aMode 0b001010#6 dest jump s = computeTick .aMode 0b001100#6 dest jump s
  rw [computeTick_ok _ _ (fun _ => h), computeTick_ok _ _ (fun _ => h), alu_001010, alu_x]

/-- Settles O3: `encode` takes both decoded instructions back to their words; the two codes of D differ in comp7 alone. -/
theorem instructionsAreEqualJustWhenTheirWordsAre : Obligations.InstructionsAreEqualJustWhenTheirWordsAre := by
  refine ⟨fun w v => ⟨fun h => ?_, congrArg decode⟩, fun dest jump =>
    ⟨Instr.noConfusion, encode_uA001010_ne_compD dest jump, fun s h => exec_uA001010_eq_compD h dest jump⟩⟩
  calc w = encode (decode w) := (encodeOfDecodeIsTheWord w).2.symm
    _ = encode (decode v) := congrArg encode h
    _ = v := (encodeOfDecodeIsTheWord v).2

/-! ### Words written out -/

/-- Settles O7, by evaluating the decoder. -/
theorem writtenOutWordsDecode : Obligations.WrittenOutWordsDecode := by
  refine ⟨?_, ?_, ?_, ?_, ?_, ?_, ?_, ?_⟩ <;> rfl

theorem decode_EA80 : decode 0xEA80#16 = .zero ⟨false, false, false⟩ .never := rfl

/-- Settles O24: without destination and jump only the pc is left to change. -/
theorem defaultInstructionOnlyAdvances : Obligations.DefaultInstructionOnlyAdvances := by
  refine ⟨decode_EA80, fun s => ?_⟩
  rw [decode_EA80]
  show computeTick .aMode 0b101010#6 ⟨false, false, false⟩ .never s = _
  rw [computeTick_ok _ _ (by simp), State.storedDisplay_eq, Bool.false_and, Bool.or_false]
  rfl

end Sys2Proof
end

