-- ==== Sys2Proof/Proofs/AssemblerPasses.lean ====
section
/-! PROOFS. The resolution pass gives one word for each real line (R70, R82), and the counter of the variables passes over the
built-in addresses (R78, R80). -/

namespace Sys2Proof.Machine

/-! ### The resolution pass -/

section
variable {labels : List (Text × Nat)} {rest : List SymLine} {vars : Vars} {ws : List Word}

theorem resolvePass_compute {d : BitVec 3} {c7 : BitVec 7} {j : BitVec 3}
    (h : resolvePass labels (.compute d c7 j :: rest) vars = .ok ws) :
    ∃ ws', resolvePass labels rest vars = .ok ws' ∧ ws = constructCompute d c7 j :: ws' := by
  rw [resolvePass] at h
  split at h
  next ws' hrest => exact ⟨ws', hrest, by cases h; rfl⟩
  next => cases h

theorem resolvePass_address {t : Text} (h : resolvePass labels (.address t :: rest) vars = .ok ws) :
    ∃ n vars' ws', resolve labels vars t = .ok (n, vars') ∧ resolvePass labels rest vars' = .ok ws' ∧
      ws = constructAddress (BitVec.ofNat 16 n) :: ws' := by
  rw [resolvePass] at h
  split at h
  next => cases h
  next n vars' hres =>
    split at h
    next ws' hrest => exact ⟨n, vars', ws', hres, hrest, by cases h; rfl⟩
    next => cases h

end

theorem length_of_resolvePass {labels : List (Text × Nat)} {syms : List SymLine} {vars : Vars} {ws : List Word}
    (h : resolvePass labels syms vars = .ok ws) : ws.length = (syms.filter SymLine.real).length := by
  induction syms generalizing vars ws with
  | nil => cases h; rfl
  | cons l rest ih =>
    cases l with
    | comment => exact ih h
    | label _ => exact ih h
    | address _ =>
      obtain ⟨_, _, ws', -, hrest, rfl⟩ := resolvePass_address h
      exact congrArg (· + 1) (ih hrest)
    | compute _ _ _ =>
      obtain ⟨ws', hrest, rfl⟩ := resolvePass_compute h
      exact congrArg (· + 1) (ih hrest)

/-- Every word comes out of one of the two constructors (R82). -/
theorem classify_of_resolvePass {labels : List (Text × Nat)} {syms : List SymLine} {vars : Vars} {ws : List Word}
    (h : resolvePass labels syms vars = .ok ws) : ∀ w ∈ ws, classify w ≠ .invalid := by
  induction syms generalizing vars ws with
  | nil => cases h; simp
  | cons l rest ih =>
    cases l with
    | comment => exact ih h
    | label _ => exact ih h
    | address _ =>
      obtain ⟨_, _, ws', -, hrest, rfl⟩ := resolvePass_address h
      exact List.forall_mem_cons.mpr ⟨by simp [classify_constructAddress], ih hrest⟩
    | compute _ _ _ =>
      obtain ⟨ws', hrest, rfl⟩ := resolvePass_compute h
      exact List.forall_mem_cons.mpr ⟨by simp [classify_constructCompute], ih hrest⟩

/-- Settles O56, by the two laws of the resolution pass. -/
theorem oneWordForEveryRealLine : Obligations.OneWordForEveryRealLine := by
  intro lines ws h
  rw [assemble] at h
  split at h
  next => cases h
  next syms hsyms => exact ⟨syms, hsyms, length_of_resolvePass h, classify_of_resolvePass h⟩

/-! ### The counter of the variables -/

/-- The counter's two steps over SCREEN and KBD, as ranges. -/
theorem variableAddress_eq (k : Nat) :
    variableAddress k = if k < 16368 then 16 + k else if k < 24559 then 17 + k else 18 + k := by
  simp only [variableAddress]
  split_ifs <;> omega

theorem variableAddress_lt {j k : Nat} (h : j < k) : variableAddress j < variableAddress k := by
  rw [variableAddress_eq, variableAddress_eq]
  split_ifs <;> omega

theorem variableAddress_avoids (k : Nat) : 16 ≤ variableAddress k ∧ variableAddress k ≠ 16384 ∧ variableAddress k ≠ 24576 := by
  rw [variableAddress_eq]
  split_ifs <;> omega

theorem builtins_addresses : ∀ b ∈ builtins, b.2 < 16 ∨ b.2 = 16384 ∨ b.2 = 24576 ∨ b.2 = 32767 := by decide

theorem allocate_ok {vars : Vars} (t : Text) (h : variableAddress vars.length < 32767) :
    allocate vars t = .ok (variableAddress vars.length, vars ++ [(t, variableAddress vars.length)]) := if_pos h

theorem allocate_cases {vars vars' : Vars} {t : Text} {n : Nat} (h : allocate vars t = .ok (n, vars')) :
    vars' = vars ++ [(t, n)] ∧ n = variableAddress vars.length ∧ n < 32767 := by
  by_cases hn : variableAddress vars.length < 32767
  · rw [allocate_ok t hn] at h
    cases h
    exact ⟨rfl, rfl, hn⟩
  · rw [allocate, if_neg hn] at h
    cases h

/-- Of the chain of R80 only its last link allocates. -/
theorem resolve_cases {labels : List (Text × Nat)} {vars vars' : Vars} {t : Text} {n : Nat}
    (h : resolve labels vars t = .ok (n, vars')) : vars' = vars ∨ allocate vars t = .ok (n, vars') := by
  rw [resolve] at h
  split at h
  next => cases h
  next =>
    split at h
    next =>
      split at h
      next => cases h; exact .inl rfl
      next => cases h
    next =>
      split at h
      next => cases h; exact .inl rfl
      next =>
        split at h
        next => cases h; exact .inl rfl
        next =>
          split at h
          next => cases h; exact .inl rfl
          next => exact .inr h

/-- Settles O57: the counter by its ranges, the answers of the chain by `resolve_cases`. -/
theorem newVariablesNeverReuseABuiltInAddress : Obligations.NewVariablesNeverReuseABuiltInAddress := by
  refine ⟨fun j k => variableAddress_lt, ⟨rfl, rfl⟩, fun labels vars vars' t n h => ?_,
    fun labels vars t hneg hlit hbuiltin hlabel hvar hn => ?_⟩
  · refine (resolve_cases h).imp_right fun halloc => ?_
    obtain ⟨hvars, hn, hlt⟩ := allocate_cases halloc
    refine ⟨hvars, hn, Nat.le_of_lt hlt, fun b hb => ?_⟩
    have hb := builtins_addresses b hb
    have hk := variableAddress_avoids vars.length
    omega
  · simp only [resolve, hneg, hlit, hbuiltin, hlabel, hvar, Bool.false_eq_true, if_false, allocate_ok t hn]

end Sys2Proof.Machine
end

