-- ==== Sys2Proof/Proofs/FormatText.lean ====
section
/-! PROOFS. Format has a text just for address words and sanctioned compute words (R84), and the assembler reads each of these texts
back as its word: the line has no comment and no blank, and each part Format writes is read as what it was written for. -/

namespace Sys2Proof.Machine

/-! ### Which words have a text -/

theorem compText_isSome (c7 : BitVec 7) : (compText c7).isSome = true ↔ ∃ r ∈ sanctioned, r.1 = c7 := by
  simp only [compText, Option.isSome_map, List.find?_isSome, beq_iff_eq]

theorem exists_of_compText {c7 : BitVec 7} {t : Text} (h : compText c7 = some t) :
    ∃ r ∈ sanctioned, r.1 = c7 ∧ r.2.toList = t := by
  obtain ⟨r, hr, ht⟩ := Option.map_eq_some_iff.mp h
  exact ⟨r, List.mem_of_find?_eq_some hr, by simpa using List.find?_some hr, ht⟩

theorem format_of_address {w : Word} (h : classify w = .address) : format w = some ('@' :: decimal w.toNat) := by
  simp only [format, h]

theorem format_of_compute {w : Word} (h : classify w = .compute) :
    format w = (compText (comp7Of w)).map (fun t => computeText (destOf w) t (jumpOf w)) := by
  simp only [format, h]

theorem format_of_invalid {w : Word} (h : classify w = .invalid) : format w = none := by
  simp only [format, h]

/-- Settles O54, by the three classes. -/
theorem formatIsPartialOnTheSanctionedCodes : Obligations.FormatIsPartialOnTheSanctionedCodes := by
  intro w
  cases hc : classify w with
  | address => simp [format_of_address hc]
  | compute => simp [format_of_compute hc, compText_isSome]
  | invalid => simp [format_of_invalid hc]

/-! ### The text of a line -/

/-- A character that comment removal and trimming leave where it stands. -/
def lineChar (c : Char) : Bool := c != '/' && !isBlank c

theorem stripComment_of_lineChar {t : Text} (h : ∀ c ∈ t, lineChar c = true) : stripComment t = t := by
  induction t with
  | nil => rfl
  | cons c t ih =>
    obtain ⟨hc, ht⟩ := List.forall_mem_cons.mp h
    have hslash : c ≠ '/' := by
      rintro rfl
      exact absurd hc (by decide)
    rw [stripComment, if_neg (fun hcomment => hslash hcomment.1), ih ht]

theorem dropWhile_isBlank_of_lineChar {t : Text} (h : ∀ c ∈ t, lineChar c = true) : t.dropWhile isBlank = t := by
  cases t with
  | nil => rfl
  | cons c t =>
    have hc := h c List.mem_cons_self
    rw [lineChar, Bool.and_eq_true, Bool.not_eq_true'] at hc
    exact List.dropWhile_cons_of_neg (by simp [hc.2])

theorem trim_stripComment {t : Text} (h : ∀ c ∈ t, lineChar c = true) : trim (stripComment t) = t := by
  have hrev : ∀ c ∈ t.reverse, lineChar c = true := fun c hc => h c (List.mem_reverse.mp hc)
  rw [stripComment_of_lineChar h, trim, dropWhile_isBlank_of_lineChar h, dropWhile_isBlank_of_lineChar hrev,
    List.reverse_reverse]

theorem parseLine_address {t : Text} (hne : t ≠ []) (h : ∀ c ∈ t, lineChar c = true) :
    parseLine ('@' :: t) = .ok (.address t) := by
  have hline : ∀ c ∈ '@' :: t, lineChar c = true := List.forall_mem_cons.mpr ⟨by decide, h⟩
  simp only [parseLine, trim_stripComment hline, hne, if_false]

/-- A character that is kept and, at the head of a line, makes it neither a label nor an address line. -/
def computeChar (c : Char) : Bool := lineChar c && c != '(' && c != '@'

theorem lineChar_of_computeChar {c : Char} (h : computeChar c = true) : lineChar c = true := by
  simp only [computeChar, Bool.and_eq_true] at h
  exact h.1.1

theorem parseLine_compute {t : Text} (hne : t ≠ []) (h : ∀ c ∈ t, computeChar c = true) : parseLine t = parseCompute t := by
  rw [parseLine, trim_stripComment fun c hc => lineChar_of_computeChar (h c hc)]
  split
  next => exact absurd rfl hne
  next => exact absurd (h '(' List.mem_cons_self) (by decide)
  next => exact absurd (h '@' List.mem_cons_self) (by decide)
  next => rfl

theorem assemble_line {t : Text} {l : SymLine} (h : parseLine t = .ok l) :
    assemble [t] = resolvePass (labelPass [l] 0 []) [l] [] := by
  simp only [assemble, parseLines, h]

/-! ### Decimal numbers -/

theorem forall_digitChar {P : Char → Prop} (h : ∀ m, m < 10 → P (Char.ofNat (48 + m))) (n : Nat) : P (digitChar n) :=
  h (n % 10) (Nat.mod_lt n (by decide))

theorem decDigit_digitChar (n : Nat) : decDigit (digitChar n) = some (n % 10) := by
  have h : ∀ m, m < 10 → decDigit (Char.ofNat (48 + m)) = some m := by decide
  exact h (n % 10) (Nat.mod_lt n (by decide))

theorem mem_decimalDigits {fuel n : Nat} {c : Char} (h : c ∈ decimalDigits fuel n) : ∃ k, c = digitChar k := by
  induction fuel generalizing n with
  | zero => cases h
  | succ fuel ih =>
    rw [decimalDigits] at h
    split at h
    next => exact ⟨n, List.mem_singleton.mp h⟩
    next =>
      rcases List.mem_append.mp h with h | h
      · exact ih h
      · exact ⟨n, List.mem_singleton.mp h⟩

theorem lineChar_of_mem_decimal {n : Nat} {c : Char} (h : c ∈ decimal n) : lineChar c = true := by
  obtain ⟨k, rfl⟩ := mem_decimalDigits h
  exact forall_digitChar (P := (lineChar · = true)) (by decide) k

theorem minus_notMem_decimal (n : Nat) : '-' ∉ decimal n := by
  intro h
  obtain ⟨k, hk⟩ := mem_decimalDigits h
  exact forall_digitChar (P := ('-' ≠ ·)) (by decide) k hk

theorem decimal_ne_nil (n : Nat) : decimal n ≠ [] := by
  rw [decimal, decimalDigits]
  split <;> simp

theorem parseDigits_append (base : Nat) (digit : Char → Option Nat) (s t : Text) (acc : Nat) :
    parseDigits base digit (s ++ t) acc = (parseDigits base digit s acc).bind (parseDigits base digit t) := by
  induction s generalizing acc with
  | nil => rfl
  | cons c s ih => simp only [List.cons_append, parseDigits, ih, Option.bind_assoc]

theorem parseDigits_digitChar (n acc : Nat) : parseDigits 10 decDigit [digitChar n] acc = some (acc * 10 + n % 10) := by
  simp only [parseDigits, decDigit_digitChar, Option.bind_some]

theorem parseDigits_decimalDigits {fuel n : Nat} (h : n < 10 ^ fuel) :
    parseDigits 10 decDigit (decimalDigits fuel n) 0 = some n := by
  induction fuel generalizing n with
  | zero => rw [Nat.lt_one_iff.mp h]; rfl
  | succ fuel ih =>
    rw [decimalDigits]
    split
    next hn => rw [parseDigits_digitChar, Nat.zero_mul, Nat.zero_add, Nat.mod_eq_of_lt hn]
    next =>
      have hdiv : n / 10 < 10 ^ fuel := Nat.div_lt_of_lt_mul (by rwa [← Nat.pow_succ'])
      rw [parseDigits_append, ih hdiv, Option.bind_some, parseDigits_digitChar, Nat.div_add_mod']

theorem parseLiteral_decimal {n : Nat} (h : n < 100000) : parseLiteral (decimal n) = some n := by
  have hnumber : parseNumber 10 decDigit (decimal n) = some n := by
    rw [parseNumber, if_neg (decimal_ne_nil n)]
    exact parseDigits_decimalDigits h
  simp only [parseLiteral, hnumber]

theorem isNegativeLiteral_of_notMem {t : Text} (h : '-' ∉ t) : isNegativeLiteral t = false := by
  unfold isNegativeLiteral
  split
  next => exact absurd List.mem_cons_self h
  next => rfl

theorem resolve_decimal (labels : List (Text × Nat)) (vars : Vars) {n : Nat} (h : n ≤ 32767) :
    resolve labels vars (decimal n) = .ok (n, vars) := by
  simp only [resolve, isNegativeLiteral_of_notMem (minus_notMem_decimal n),
    parseLiteral_decimal (Nat.lt_of_le_of_lt h (by decide)), h, if_true, Bool.false_eq_true, if_false]

theorem assemble_decimal {n : Nat} (h : n ≤ 32767) :
    assemble ['@' :: decimal n] = .ok [constructAddress (BitVec.ofNat 16 n)] := by
  rw [assemble_line (parseLine_address (decimal_ne_nil n) fun c => lineChar_of_mem_decimal)]
  simp only [resolvePass, resolve_decimal _ _ h]

/-! ### The parts of a compute line -/

theorem splitFirst_append {c : Char} {s : Text} (h : c ∉ s) (t : Text) : splitFirst c (s ++ c :: t) = (s, some t) := by
  induction s with
  | nil => simp [splitFirst]
  | cons x s ih =>
    rw [List.mem_cons, not_or] at h
    simp [splitFirst, Ne.symm h.1, ih h.2]

theorem splitFirst_of_notMem {c : Char} {s : Text} (h : c ∉ s) : splitFirst c s = (s, none) := by
  induction s with
  | nil => rfl
  | cons x s ih =>
    rw [List.mem_cons, not_or] at h
    simp [splitFirst, Ne.symm h.1, ih h.2]

theorem parseDest_destText {d : Dest} (h : d ≠ ⟨false, false, false⟩) : parseDest (some (destText d)) = .ok d.bits := by
  rcases d with ⟨_ | _, _ | _, _ | _⟩
  · exact absurd rfl h
  all_goals rfl

theorem parseJump_jumpText {j : Jump} (h : j ≠ .never) : parseJump (some (jumpText j)) = .ok j.bits := by
  cases j with
  | never => exact absurd rfl h
  | _ => rfl

theorem parseComp_sanctioned : ∀ r ∈ sanctioned, parseComp r.2.toList = .ok r.1 := by decide

theorem sanctioned_ne_nil : ∀ r ∈ sanctioned, r.2.toList ≠ [] := by decide

theorem sanctioned_chars : ∀ r ∈ sanctioned, ∀ c ∈ r.2.toList, computeChar c = true ∧ c ≠ '=' ∧ c ≠ ';' := by
  simp [sanctioned, computeChar, lineChar, isBlank]

theorem destText_chars (d : Dest) : ∀ c ∈ destText d, computeChar c = true ∧ c ≠ '=' := by
  rcases d with ⟨_ | _, _ | _, _ | _⟩ <;> simp [destText, computeChar, lineChar, isBlank]

/-! ### A compute line -/

/-- What Format writes before the computation (R83). -/
def destPrefix (d : Dest) : Text := if d = ⟨false, false, false⟩ then [] else destText d ++ ['=']

/-- What Format writes after the computation (R83). -/
def jumpSuffix (j : Jump) : Text := if j = .never then [] else ';' :: jumpText j

theorem computeText_eq (d : Dest) (t : Text) (j : Jump) : computeText d t j = destPrefix d ++ t ++ jumpSuffix j := rfl

theorem destPrefix_chars (d : Dest) : ∀ c ∈ destPrefix d, computeChar c = true := by
  rw [destPrefix]
  split
  next => simp
  next => exact List.forall_mem_append.mpr ⟨fun c hc => (destText_chars d c hc).1, by
      simp [computeChar, lineChar, isBlank]⟩

theorem jumpSuffix_chars (j : Jump) : ∀ c ∈ jumpSuffix j, computeChar c = true ∧ c ≠ '=' := by
  cases j <;> simp [jumpSuffix, jumpText, computeChar, lineChar, isBlank]

/-- The part after the computation is read as the jump it was written for. -/
theorem split_jumpSuffix {t : Text} (h : ';' ∉ t) (j : Jump) :
    ∃ p, splitFirst ';' (t ++ jumpSuffix j) = (t, p) ∧ parseJump p = .ok j.bits := by
  by_cases hj : j = .never
  · refine ⟨none, ?_, hj ▸ rfl⟩
    rw [jumpSuffix, if_pos hj, List.append_nil, splitFirst_of_notMem h]
  · refine ⟨some (jumpText j), ?_, parseJump_jumpText hj⟩
    rw [jumpSuffix, if_neg hj, splitFirst_append h]

theorem parseCompute_noDest {t s : Text} {p : Option Text} {c7 : BitVec 7} {j : BitVec 3} (heq : '=' ∉ t)
    (hsemi : splitFirst ';' t = (s, p)) (hc : parseComp s = .ok c7) (hj : parseJump p = .ok j) :
    parseCompute t = .ok (.compute 0#3 c7 j) := by
  simp only [parseCompute, splitFirst_of_notMem heq, hsemi, hc, hj, parseDest]

theorem parseCompute_dest {u t s : Text} {p : Option Text} {d : BitVec 3} {c7 : BitVec 7} {j : BitVec 3} (heq : '=' ∉ u)
    (hd : parseDest (some u) = .ok d) (hsemi : splitFirst ';' t = (s, p)) (hc : parseComp s = .ok c7)
    (hj : parseJump p = .ok j) : parseCompute (u ++ '=' :: t) = .ok (.compute d c7 j) := by
  simp only [parseCompute, splitFirst_append heq, hsemi, hc, hj, hd]

theorem parseCompute_computeText {r : BitVec 7 × String} (hr : r ∈ sanctioned) (d : Dest) (j : Jump) :
    parseCompute (computeText d r.2.toList j) = .ok (.compute d.bits r.1 j.bits) := by
  have hcomp := parseComp_sanctioned r hr
  have hchars := sanctioned_chars r hr
  obtain ⟨p, hsemi, hjump⟩ := split_jumpSuffix (fun h => (hchars _ h).2.2 rfl) j
  rw [computeText_eq]
  by_cases hd : d = ⟨false, false, false⟩
  · have heq : '=' ∉ r.2.toList ++ jumpSuffix j := fun h =>
      (List.mem_append.mp h).elim (fun h => (hchars _ h).2.1 rfl) (fun h => (jumpSuffix_chars j _ h).2 rfl)
    rw [destPrefix, if_pos hd, List.nil_append, parseCompute_noDest heq hsemi hcomp hjump, hd]
    rfl
  · have heq : '=' ∉ destText d := fun h => (destText_chars d _ h).2 rfl
    rw [destPrefix, if_neg hd, List.append_assoc, List.append_assoc]
    exact parseCompute_dest heq (parseDest_destText hd) hsemi hcomp hjump

theorem parseLine_computeText {r : BitVec 7 × String} (hr : r ∈ sanctioned) (d : Dest) (j : Jump) :
    parseLine (computeText d r.2.toList j) = .ok (.compute d.bits r.1 j.bits) := by
  have hne : computeText d r.2.toList j ≠ [] := by
    simp [computeText_eq, sanctioned_ne_nil r hr]
  have hchars : ∀ c ∈ computeText d r.2.toList j, computeChar c = true := by
    rw [computeText_eq, List.forall_mem_append, List.forall_mem_append]
    exact ⟨⟨destPrefix_chars d, fun c hc => (sanctioned_chars r hr c hc).1⟩, fun c hc => (jumpSuffix_chars j c hc).1⟩
  rw [parseLine_compute hne hchars, parseCompute_computeText hr]

theorem assemble_computeText {r : BitVec 7 × String} (hr : r ∈ sanctioned) (d : Dest) (j : Jump) :
    assemble [computeText d r.2.toList j] = .ok [constructCompute d.bits r.1 j.bits] := by
  rw [assemble_line (parseLine_computeText hr d j)]
  simp only [resolvePass]

/-! ### The text of a word -/

theorem constructCompute_fields {w : Word} (h : classify w = .compute) :
    constructCompute (destOf w).bits (comp7Of w) (jumpOf w).bits = w := by
  have hw := word_of_fields h
  have hc7 := congrArg comp7Of hw
  rw [comp7Of_constructCompute] at hc7
  rwa [hc7] at hw

/-- Settles O55, by the two forms of a text: `@` and a decimal number, or the parts of a compute line. -/
theorem assemblingTheFormatGivesTheWord : Obligations.AssemblingTheFormatGivesTheWord := by
  intro w t h
  cases hc : classify w with
  | address =>
    rw [format_of_address hc, Option.some_inj] at h
    rw [← h, assemble_decimal (Nat.le_of_lt_succ ((classify_address_iff_lt w).mp hc)), BitVec.ofNat_toNat, BitVec.setWidth_eq,
      constructAddress_of_address hc]
  | compute =>
    rw [format_of_compute hc] at h
    obtain ⟨s, hs, rfl⟩ := Option.map_eq_some_iff.mp h
    obtain ⟨r, hr, hc7, rfl⟩ := exists_of_compText hs
    rw [assemble_computeText hr, hc7, constructCompute_fields hc]
  | invalid =>
    rw [format_of_invalid hc] at h
    cases h

end Sys2Proof.Machine
end

