-- ==== Sys2Proof/Proofs/AddressInstruction.lean ====
section
/-! PROOFS. The address instruction: A gets the low 15 bits of the word, the pc advances, and nothing else changes (R90). -/

namespace Sys2Proof.Machine

theorem classify_address_of_mask {w : Word} (h : w &&& 0x8000#16 = 0#16) : classify w = .address :=
  (classify_address_iff w).mpr ((and_8000_eq_zero_iff w).mp h)

/-- Clearing bit 15 is the zero extension of the low 15 bits (R56). -/
theorem constructAddress_eq_setWidth (v : Word) : constructAddress v = (v.extractLsb' 0 15).setWidth 16 := by
  apply BitVec.eq_of_toNat_eq
  rw [constructAddress_toNat, BitVec.toNat_setWidth_of_le (by decide), BitVec.extractLsb'_toNat, Nat.shiftRight_zero]

/-- The meaning needs no hypothesis on the constant: bit 15 of an ill-formed one is cleared (log 8). -/
theorem exec_addressValue (v : Word) (s : State) :
    exec (.addressValue v) s = .next { s with A := (v.extractLsb' 0 15).setWidth 16, pc := s.pc + 1 } := by
  show Host.Outcome.next (s.advance.setA (constructAddress v)) = _
  rw [constructAddress_eq_setWidth]
  rfl

/-- Settles O8: a clear bit 15 is the class address, which the decoder gives `addressValue`; the tick runs what it decodes. -/
theorem addressInstructionLoadsA : Obligations.AddressInstructionLoadsA := by
  refine ⟨fun w h => decode_of_address (classify_address_of_mask h), fun w s _ => exec_addressValue w s,
    fun w s h hs hf => ?_⟩
  rw [step_of_fetch hs hf, decode_of_address (classify_address_of_mask h), exec_addressValue]

end Sys2Proof.Machine
end

