-- ==== Sys2Proof/Proofs/ComputeInstruction.lean ====
section
/-! PROOFS. The compute instruction as a whole (41_compute_instruction.md): one value, computed from the old state, decides the jump
and goes to every selected destination (R106, R107, R111); what it leaves unchanged; and that every instruction has a next state
(R105). -/

namespace Sys2Proof.Machine

/-! ### The fields after a compute word, in the value of the statements -/

section
variable (s : State) (w : Word)

/-- The value of the proofs' form is comp of R100. -/
theorem State.alu_yOf_eq_compOf : alu (controlOf w) s.D (s.yOf (modeOf w)) = Claim.compOf w s := by
  rw [State.yOf_eq_operand, Claim.compOf]

theorem State.computed_A_compOf : (s.computed w).A = if (destOf w).toA then Claim.compOf w s else s.A := by
  rw [← State.alu_yOf_eq_compOf, State.computed]

theorem State.computed_D_compOf : (s.computed w).D = if (destOf w).toD then Claim.compOf w s else s.D := by
  rw [← State.alu_yOf_eq_compOf, State.computed]

theorem State.computed_pc_compOf :
    (s.computed w).pc = if jumpCond (jumpOf w) (Claim.compOf w s) then s.A.toNat else s.pc + 1 := by
  rw [State.computed_pc, State.alu_yOf_eq_compOf, State.ea]

theorem State.computed_ram_compOf : (s.computed w).ram = s.storedRam (destOf w).toM s.ea (Claim.compOf w s) := by
  rw [State.computed_ram, State.alu_yOf_eq_compOf]

theorem State.computed_displayChanged_compOf :
    (s.computed w).displayChanged = s.storedDisplay (destOf w).toM s.ea (Claim.compOf w s) := by
  rw [← State.alu_yOf_eq_compOf, State.computed]

end

/-- Without the M destination nothing is stored. -/
@[simp] theorem State.storedRam_false (s : State) (a : Nat) (v : Word) : s.storedRam false a v = s.ram :=
  if_neg (fun h => Bool.false_ne_true h.1)

@[simp] theorem State.storedDisplay_false (s : State) (a : Nat) (v : Word) :
    s.storedDisplay false a v = s.displayChanged := by
  rw [State.storedDisplay_eq, Bool.false_and, Bool.or_false]

/-! ### What a compute word changes and leaves unchanged (R100, R107) -/

/-- Settles O17, field by field of the state after the word; the one cell written is at the old A. -/
theorem computeFrame : Obligations.ComputeFrame := by
  intro w s t hc hexec _ ha
  rw [exec_compute_ok hc ha] at hexec
  obtain rfl : s.computed w = t := Host.Outcome.next.inj hexec
  refine ⟨fun hA => ?_, fun hD => ?_, fun a b hea hb => ?_, fun hM => ⟨fun b => ?_, ?_⟩, fun hset => ?_, rfl, rfl, rfl⟩
  · rw [State.computed_A_compOf, hA, if_neg Bool.false_ne_true]
  · rw [State.computed_D_compOf, hD, if_neg Bool.false_ne_true]
  · rw [State.computed_ram_compOf, State.read_storedRam_other s _ _ (hea ▸ hb)]
  · rw [State.computed_ram_compOf, hM, State.storedRam_false]
  · rw [State.computed_displayChanged_compOf, hM, State.storedDisplay_false]
  · exact State.storedDisplay_of_set _ _ _ hset

/-- Settles O19: the registers by their fields, the memory by the read after a store. -/
theorem oneValueForEveryDestination : Obligations.OneValueForEveryDestination := by
  intro w s hc ha
  refine ⟨_, exec_compute_ok hc ha, State.computed_A_compOf s w, State.computed_D_compOf s w, ?_, fun b hb => ?_⟩
  · rw [State.computed_ram_compOf]
    exact State.read_storedRam_same s _ _ _
  · rw [State.computed_ram_compOf]
    exact State.read_storedRam_other s _ _ hb

/-! ### Compute words that do not touch memory (R102, R222) -/

/-- With a = 0 and no M destination the tick succeeds in every state and only the registers and the pc can change. -/
theorem computeTick_offMemory (c : BitVec 6) {dest : Dest} (jump : Jump) (s : State) (hM : dest.toM = false) :
    computeTick .aMode c dest jump s = .next { s with
      A := if dest.toA then alu c s.D s.A else s.A
      D := if dest.toD then alu c s.D s.A else s.D
      pc := if jumpCond jump (alu c s.D s.A) then s.ea else s.pc + 1 } := by
  rw [computeTick_ok c jump (by simp [hM]), hM, State.storedRam_false, State.storedDisplay_false]
  rfl

theorem aMode_of_not_touches {w : Word} (hw : ¬ touches w) : modeOf w = .aMode ∧ (destOf w).toM = false := by
  obtain ⟨hmode, hM⟩ := not_or.mp hw
  refine ⟨?_, Bool.eq_false_of_not_eq_true hM⟩
  cases h : modeOf w with
  | aMode => rfl
  | mMode => exact absurd h hmode

/-- Settles O23: the meaning is `computeTick_offMemory` on either memory, which neither reads nor changes it. -/
theorem wordsOffMemoryIgnoreMemory : Obligations.WordsOffMemoryIgnoreMemory := by
  intro w s m hc hw
  obtain ⟨hmode, hM⟩ := aMode_of_not_touches hw
  simp only [exec_decode_compute hc, hmode, computeTick_offMemory _ _ _ hM]
  exact ⟨_, rfl, rfl, rfl, rfl⟩

/-! ### The jump (R106) -/

theorem jumpCond_never (v : Word) : jumpCond .never v = false := jumpCond_eq_jumpHolds .never v

theorem jumpCond_jmp (v : Word) : jumpCond .jmp v = true := jumpCond_eq_jumpHolds .jmp v

theorem jumpCond_jgt (v : Word) : jumpCond .jgt v = decide (0 < v.toInt) := jumpCond_eq_jumpHolds .jgt v

/-- `A=0;JMP` (0xEAA7). -/
theorem exec_zeroToA_jmp (s : State) :
    exec (.zero ⟨false, false, true⟩ .jmp) s = .next { s with A := 0#16, pc := s.A.toNat } := by
  show computeTick .aMode 0b101010#6 ⟨false, false, true⟩ .jmp s = _
  rw [computeTick_offMemory _ _ _ rfl, jumpCond_jmp]
  rfl

/-- Settles O18: the pc by its field, which names no destination. -/
theorem jumpGoesThroughTheOldA : Obligations.JumpGoesThroughTheOldA :=
  ⟨fun w s hc ha => ⟨_, exec_compute_ok hc ha, State.computed_pc_compOf s w⟩, exec_zeroToA_jmp⟩

/-! ### Reads before writes (R111) -/

/-- The pattern of y + 1 (R175) adds all ones to the complement of y and complements the sum. -/
theorem alu_yPlus1 (x y : Word) : alu 0b110111#6 x y = y + 1 := by
  show ~~~(~~~0#16 + ~~~y) = y + 1
  bv_omega

/-- The pattern of x - 1 (R134) adds all ones to x. -/
theorem alu_xMinus1 (x y : Word) : alu 0b001110#6 x y = x - 1 := by
  show x + ~~~0#16 = x - 1
  bv_omega

/-- `A=D;JMP` (0xE327). -/
theorem exec_dToA_jmp (s : State) : exec (.compD ⟨false, false, true⟩ .jmp) s = .next { s with A := s.D, pc := s.A.toNat } := by
  show computeTick .aMode 0b001100#6 ⟨false, false, true⟩ .jmp s = _
  rw [computeTick_offMemory _ _ _ rfl, alu_x, jumpCond_jmp]
  rfl

/-- `AD=D+A` (0xE0B0). -/
theorem exec_dPlusAToAD (s : State) :
    exec (.dPlusA ⟨false, true, true⟩ .never) s = .next { s with A := s.D + s.A, D := s.D + s.A, pc := s.pc + 1 } := by
  show computeTick .aMode 0b000010#6 ⟨false, true, true⟩ .never s = _
  rw [computeTick_offMemory _ _ _ rfl, jumpCond_never]
  rfl

/-- `D=D-1;JGT` (0xE391): the jump tests the new value. -/
theorem exec_dMinus1ToD_jgt (s : State) : exec (.dMinus1 ⟨false, true, false⟩ .jgt) s =
    .next { s with D := s.D - 1, pc := if 0 < (s.D - 1).toInt then s.A.toNat else s.pc + 1 } := by
  show computeTick .aMode 0b001110#6 ⟨false, true, false⟩ .jgt s = _
  rw [computeTick_offMemory _ _ _ rfl, alu_xMinus1, jumpCond_jgt]
  simp [State.ea]

/-- Settles O22: the words without memory by their meanings above, the two with memory by `computeTick_ok`, whose fields are the
old values'. -/
theorem readsComeBeforeWrites : Obligations.ReadsComeBeforeWrites := by
  refine ⟨exec_dToA_jmp, fun s h hk => ?_, exec_dPlusAToAD, fun s h hpos => ?_, fun s hD => ?_⟩
  · refine ⟨_, computeTick_ok (mode := .mMode) 0b110111#6 (dest := ⟨true, false, true⟩) .never (fun _ => h),
      alu_yPlus1 _ _, ?_⟩
    rw [alu_yPlus1]
    exact if_pos ⟨rfl, hk⟩
  · refine ⟨_, computeTick_ok (mode := .mMode) 0b000010#6 (dest := ⟨true, true, true⟩) .jgt (fun _ => h), ?_, rfl, rfl⟩
    exact if_pos ((jumpCond_jgt _).trans (decide_eq_true hpos))
  · refine (exec_dMinus1ToD_jgt s).trans ?_
    rw [hD]
    rfl

/-! ### Every instruction has a next state (R105, log 1, log 7) -/

/-- A decoded word does so in each of the three classes; for a compute word, whether or not its cell exists. -/
theorem exec_decode_answers_next (w : Word) (s : State) : ∃ t, exec (decode w) s = .next t := by
  cases hc : classify w with
  | address => exact ⟨_, exec_decode_address hc s⟩
  | invalid => exact ⟨_, exec_decode_invalid hc s⟩
  | compute =>
    by_cases h : touches w → s.ea < s.params.memWords
    · exact ⟨_, exec_compute_ok hc h⟩
    · obtain ⟨hw, ha⟩ := Classical.not_imp.mp h
      exact ⟨_, exec_compute_bad hc hw (Nat.not_lt.mp ha)⟩

/-- A well-formed instruction is the decoded form of its word; only an address instruction can be ill formed. -/
theorem exec_answers_next (i : Instr) (s : State) : ∃ t, exec i s = .next t := by
  by_cases hi : WellFormed i
  · rw [← decodeOfEncodeIsTheInstruction i hi]
    exact exec_decode_answers_next _ s
  · cases i with
    | addressValue v => exact ⟨_, exec_addressValue v s⟩
    | _ => exact absurd rfl hi

/-- Settles O37: an instruction by `exec_answers_next`, a step by the outcomes of a running state. -/
theorem everyWordHasAMeaning : Obligations.EveryWordHasAMeaning :=
  ⟨exec_answers_next, fun _ hs => (step_running hs).imp fun _ h => h.1⟩

end Sys2Proof.Machine
end

