-- ==== Sys2Proof/Proofs/AluTable.lean ====
section
/-! PROOFS. The 64 control patterns of 42_alu_table.md in both modes. Which words decode to a
pattern and the next state it gives are proved once, for every pattern, in `patternRule`; left for each are its two texts and the
closed form of its result. -/

namespace Sys2Proof

/-! ### Closed forms

A complement is a two's-complement negation less 1, so each sum of plain or complemented operands is a difference. An operand
zeroed and complemented is `~~~0#16`, all ones: -1 in a sum, neutral under `&&&`. -/

section
variable (x y : Word)

theorem Word.add_not : x + ~~~y = x - y - 1 := by bv_omega
theorem Word.not_add : ~~~x + y = y - x - 1 := by bv_omega
theorem Word.not_add_not : ~~~x + ~~~y = -(x + y) - 2 := by bv_omega

theorem Word.compl_add_not : ~~~(x + ~~~y) = y - x := by bv_omega
theorem Word.compl_not_add : ~~~(~~~x + y) = x - y := by bv_omega
theorem Word.compl_not_add_not : ~~~(~~~x + ~~~y) = x + y + 1 := by bv_omega

theorem Word.compl_and_not : ~~~(x &&& ~~~y) = ~~~x ||| y := by rw [BitVec.not_and, BitVec.not_not]
theorem Word.compl_not_and : ~~~(~~~x &&& y) = x ||| ~~~y := by rw [BitVec.not_and, BitVec.not_not]
theorem Word.compl_not_and_not : ~~~(~~~x &&& ~~~y) = x ||| y := by rw [← BitVec.not_or, BitVec.not_not]

theorem Word.and_ones : x &&& ~~~0#16 = x := by rw [BitVec.not_zero, BitVec.and_allOnes]
theorem Word.ones_and : ~~~0#16 &&& y = y := by rw [BitVec.not_zero, BitVec.allOnes_and]

theorem Word.not_add_ones : ~~~x + ~~~0#16 = -x - 2 := by rw [Word.not_add_not, BitVec.add_zero]
theorem Word.ones_add : ~~~0#16 + y = y - 1 := by rw [Word.not_add, BitVec.sub_zero]
theorem Word.ones_add_not : ~~~0#16 + ~~~y = -y - 2 := by rw [Word.not_add_not, BitVec.zero_add]

theorem Word.compl_add_ones : ~~~(x + ~~~0#16) = -x := by rw [Word.compl_add_not, BitVec.zero_sub]
theorem Word.compl_ones_add : ~~~(~~~0#16 + y) = -y := by rw [Word.compl_not_add, BitVec.zero_sub]
theorem Word.compl_not_add_ones : ~~~(~~~x + ~~~0#16) = x + 1 := by rw [Word.compl_not_add_not, BitVec.add_zero]

end

/-! ### The words of a pattern (R53, R54) -/

/-- The word of a pattern with mode bit, dest and jump 0: what the words of the pattern keep under the mask 0xEFC0. -/
def patternWord (c : BitVec 6) : Word := constructCompute 0#3 (comp7Join .aMode c) 0#3

theorem getLsbD_comp7Join (m : Mode) (c : BitVec 6) {i : Nat} (h : i < 6) : (comp7Join m c).getLsbD i = c.getLsbD i := by
  cases m <;> rw [comp7Join, BitVec.getLsbD_append, if_pos h]

theorem comp7Of_patternWord (c : BitVec 6) : comp7Of (patternWord c) = comp7Join .aMode c := comp7Of_constructCompute _ _ _

theorem comp7Of_patternWord_or_mode (c : BitVec 6) : comp7Of (patternWord c ||| 0x1000#16) = comp7Join .mMode c := by
  refine Machine.forall_control (P := fun c => comp7Of (patternWord c ||| 0x1000#16) = comp7Join .mMode c) (fun n hn => ?_) c
  interval_cases n <;> rfl

/-- The mask 0xEFC0 keeps the class bits and the control pattern. -/
theorem fields_of_pattern {w : Word} {c : BitVec 6} (h : w &&& 0xEFC0#16 = patternWord c) :
    classify w = .compute ∧ controlOf w = c := by
  have hbit (i : Nat) (hmask : (0xEFC0#16).getLsbD i = true) : w.getLsbD i = (patternWord c).getLsbD i := by
    rw [← h, BitVec.getLsbD_and, hmask, Bool.and_true]
  constructor
  · rw [classify_compute_iff, hbit 15 rfl, hbit 14 rfl, hbit 13 rfl]
    exact (classify_compute_iff _).mp (classify_constructCompute _ _ _)
  · apply BitVec.eq_of_getLsbD_eq
    intro i hi
    have hmask : (0xEFC0#16).getLsbD (6 + i) = true := by interval_cases i <;> rfl
    calc (controlOf w).getLsbD i = w.getLsbD (6 + i) := by
          rw [controlOf, BitVec.getLsbD_extractLsb', decide_eq_true hi, Bool.true_and]
      _ = (patternWord c).getLsbD (6 + i) := hbit _ hmask
      _ = (comp7Join .aMode c).getLsbD i := by
          rw [patternWord, getLsbD_constructCompute _ _ _ _ (by omega), if_neg (by omega), if_pos (by omega),
            Nat.add_sub_cancel_left]
      _ = c.getLsbD i := getLsbD_comp7Join _ c hi

theorem decode_of_pattern {w : Word} {c : BitVec 6} (h : w &&& 0xEFC0#16 = patternWord c) :
    decode w = if w.getLsbD 12 then decodeMMode c (destOf w) (jumpOf w) else decodeAMode c (destOf w) (jumpOf w) := by
  obtain ⟨hclass, hcontrol⟩ := fields_of_pattern h
  unfold decode
  rw [hclass, hcontrol, modeOf]
  cases w.getLsbD 12 <;> rfl

end Sys2Proof

namespace Sys2Proof.Machine

/-! ### One rule for every pattern -/

/-- The tick of a compute instruction in the terms of the statements (R100). -/
theorem computeTick_eq_afterCompute {mode : Mode} (c : BitVec 6) {dest : Dest} (jump : Jump) {s : State}
    (h : mode = .mMode ∨ dest.toM = true → s.A.toNat < s.params.memWords) :
    computeTick mode c dest jump s = .next (Claim.afterCompute s (alu c s.D (Claim.operand mode s)) dest jump) := by
  rw [computeTick_ok c jump h, State.yOf_eq_operand, jumpCond_eq_jumpHolds, State.storedDisplay_eq,
    State.displayReport_eq_reports]
  rfl

/-- A rule of the table holds of every pattern whose two texts and closed form are right. -/
theorem patternRule (c : BitVec 6) {textA textM : Option String} {f : Word → Word → Word}
    (hA : compText (comp7Join .aMode c) = textA.map String.toList)
    (hM : compText (comp7Join .mMode c) = textM.map String.toList) (hf : ∀ x y, alu c x y = f x y) :
    Claim.PatternRule (patternWord c) (decodeAMode c) (decodeMMode c) textA textM f := by
  refine ⟨fun w h => decode_of_pattern h, ?_, ?_, fun dest jump s h => ?_, fun dest jump s h => ?_⟩
  · rw [comp7Of_patternWord, hA]
  · rw [comp7Of_patternWord_or_mode, hM]
  · rw [exec_decodeAMode, computeTick_eq_afterCompute c jump (by simpa using h), hf, Claim.operand]
  · rw [exec_decodeMMode, computeTick_eq_afterCompute c jump (fun _ => h), hf, Claim.operand]

/-! ### The table

The two texts evaluate. A closed form is the six steps of R104 written out, or a law above of what they give. Patterns come in
pairs: the odd one complements the result of the even one before it. -/

/-- With both operands zeroed the result is a constant, the one of operands 0. -/
theorem alu_of_zeroed {c : BitVec 6} {v : Word} (hx : c.getLsbD 5 = true) (hy : c.getLsbD 3 = true)
    (hv : alu c 0#16 0#16 = v) (x y : Word) : alu c x y = v := by
  have hpreset (n : Bool) (x : Word) : preset true n x = preset true n 0#16 := by cases n <;> rfl
  simp only [← hv, alu, hx, hy, hpreset _ x, hpreset _ y]

/-- Settles O9, row by row: x is D, and y stays plain or is complemented. -/
theorem aluPatterns0To7 : Obligations.AluPatterns0To7 :=
  ⟨patternRule 0b000000#6 rfl rfl fun _ _ => rfl,
    patternRule 0b000001#6 rfl rfl fun _ _ => rfl,
    patternRule 0b000010#6 rfl rfl fun _ _ => rfl,
    patternRule 0b000011#6 rfl rfl fun x y => BitVec.not_eq_neg_add (x + y),
    patternRule 0b000100#6 rfl rfl fun _ _ => rfl,
    patternRule 0b000101#6 rfl rfl Word.compl_and_not,
    patternRule 0b000110#6 rfl rfl Word.add_not,
    patternRule 0b000111#6 rfl rfl Word.compl_add_not⟩

/-- Settles O10, row by row: x is D, and y becomes 0 or all ones. -/
theorem aluPatterns8To15 : Obligations.AluPatterns8To15 :=
  ⟨patternRule 0b001000#6 rfl rfl fun _ _ => BitVec.and_zero,
    patternRule 0b001001#6 rfl rfl fun _ _ => congrArg (~~~·) BitVec.and_zero,
    patternRule 0b001010#6 rfl rfl alu_001010,
    patternRule 0b001011#6 rfl rfl fun x _ => congrArg (~~~·) (BitVec.add_zero x),
    patternRule 0b001100#6 rfl rfl alu_x,
    patternRule 0b001101#6 rfl rfl fun x _ => congrArg (~~~·) (Word.and_ones x),
    patternRule 0b001110#6 rfl rfl alu_xMinus1,
    patternRule 0b001111#6 rfl rfl fun x _ => Word.compl_add_ones x⟩

/-- Settles O11, row by row: x is the complement of D, and y stays plain or is complemented. -/
theorem aluPatterns16To23 : Obligations.AluPatterns16To23 :=
  ⟨patternRule 0b010000#6 rfl rfl fun _ _ => rfl,
    patternRule 0b010001#6 rfl rfl Word.compl_not_and,
    patternRule 0b010010#6 rfl rfl Word.not_add,
    patternRule 0b010011#6 rfl rfl Word.compl_not_add,
    patternRule 0b010100#6 rfl rfl fun _ _ => BitVec.not_or.symm,
    patternRule 0b010101#6 rfl rfl Word.compl_not_and_not,
    patternRule 0b010110#6 rfl rfl Word.not_add_not,
    patternRule 0b010111#6 rfl rfl Word.compl_not_add_not⟩

/-- Settles O12, row by row: x is the complement of D, and y becomes 0 or all ones. -/
theorem aluPatterns24To31 : Obligations.AluPatterns24To31 :=
  ⟨patternRule 0b011000#6 rfl rfl fun _ _ => BitVec.and_zero,
    patternRule 0b011001#6 rfl rfl fun _ _ => congrArg (~~~·) BitVec.and_zero,
    patternRule 0b011010#6 rfl rfl fun x _ => BitVec.add_zero (~~~x),
    patternRule 0b011011#6 rfl rfl fun x _ => BitVec.not_eq_comm.mpr (BitVec.add_zero (~~~x)),
    patternRule 0b011100#6 rfl rfl fun x _ => Word.and_ones (~~~x),
    patternRule 0b011101#6 rfl rfl fun x _ => BitVec.not_eq_comm.mpr (Word.and_ones (~~~x)),
    patternRule 0b011110#6 rfl rfl fun x _ => Word.not_add_ones x,
    patternRule 0b011111#6 rfl rfl fun x _ => Word.compl_not_add_ones x⟩

/-- Settles O13, row by row: x is 0, so `&&&` gives 0 and a sum is its second operand. -/
theorem aluPatterns32To39 : Obligations.AluPatterns32To39 :=
  ⟨patternRule 0b100000#6 rfl rfl fun _ _ => BitVec.zero_and,
    patternRule 0b100001#6 rfl rfl fun _ _ => congrArg (~~~·) BitVec.zero_and,
    patternRule 0b100010#6 rfl rfl fun _ y => BitVec.zero_add y,
    patternRule 0b100011#6 rfl rfl fun _ y => congrArg (~~~·) (BitVec.zero_add y),
    patternRule 0b100100#6 rfl rfl fun _ _ => BitVec.zero_and,
    patternRule 0b100101#6 rfl rfl fun _ _ => congrArg (~~~·) BitVec.zero_and,
    patternRule 0b100110#6 rfl rfl fun _ y => BitVec.zero_add (~~~y),
    patternRule 0b100111#6 rfl rfl fun _ y => BitVec.not_eq_comm.mpr (BitVec.zero_add (~~~y))⟩

/-- Settles O14, row by row: both operands are zeroed. -/
theorem aluPatterns40To47 : Obligations.AluPatterns40To47 :=
  ⟨patternRule 0b101000#6 rfl rfl (alu_of_zeroed rfl rfl (by decide)),
    patternRule 0b101001#6 rfl rfl (alu_of_zeroed rfl rfl (by decide)),
    patternRule 0b101010#6 rfl rfl (alu_of_zeroed rfl rfl (by decide)),
    patternRule 0b101011#6 rfl rfl (alu_of_zeroed rfl rfl (by decide)),
    patternRule 0b101100#6 rfl rfl (alu_of_zeroed rfl rfl (by decide)),
    patternRule 0b101101#6 rfl rfl (alu_of_zeroed rfl rfl (by decide)),
    patternRule 0b101110#6 rfl rfl (alu_of_zeroed rfl rfl (by decide)),
    patternRule 0b101111#6 rfl rfl (alu_of_zeroed rfl rfl (by decide))⟩

/-- Settles O15, row by row: x is all ones, and y stays plain or is complemented. -/
theorem aluPatterns48To55 : Obligations.AluPatterns48To55 :=
  ⟨patternRule 0b110000#6 rfl rfl alu_y,
    patternRule 0b110001#6 rfl rfl fun _ y => congrArg (~~~·) (Word.ones_and y),
    patternRule 0b110010#6 rfl rfl fun _ y => Word.ones_add y,
    patternRule 0b110011#6 rfl rfl fun _ y => Word.compl_ones_add y,
    patternRule 0b110100#6 rfl rfl fun _ y => Word.ones_and (~~~y),
    patternRule 0b110101#6 rfl rfl fun _ y => BitVec.not_eq_comm.mpr (Word.ones_and (~~~y)),
    patternRule 0b110110#6 rfl rfl fun _ y => Word.ones_add_not y,
    patternRule 0b110111#6 rfl rfl alu_yPlus1⟩

/-- Settles O16, row by row: both operands are zeroed. -/
theorem aluPatterns56To63 : Obligations.AluPatterns56To63 :=
  ⟨patternRule 0b111000#6 rfl rfl (alu_of_zeroed rfl rfl (by decide)),
    patternRule 0b111001#6 rfl rfl (alu_of_zeroed rfl rfl (by decide)),
    patternRule 0b111010#6 rfl rfl (alu_of_zeroed rfl rfl (by decide)),
    patternRule 0b111011#6 rfl rfl (alu_of_zeroed rfl rfl (by decide)),
    patternRule 0b111100#6 rfl rfl (alu_of_zeroed rfl rfl (by decide)),
    patternRule 0b111101#6 rfl rfl (alu_of_zeroed rfl rfl (by decide)),
    patternRule 0b111110#6 rfl rfl (alu_of_zeroed rfl rfl (by decide)),
    patternRule 0b111111#6 rfl rfl (alu_of_zeroed rfl rfl (by decide))⟩

end Sys2Proof.Machine
end

