-- ==== Sys2Proof/Proofs/JumpAndDest.lean ====
section
/-! PROOFS. The jump and destination fields of a compute word (43_jump_and_dest.md): the eight codes decide the next pc, the three
destination bits the writes, and no other word transfers control. -/

namespace Sys2Proof.Machine

/-! ### The jump codes (R190 to R198) -/

/-- The jump field names the condition whose code it holds. -/
theorem jumpOf_eq_of_code {w : Word} {j : Jump} (h : (w.extractLsb' 0 3).toNat = j.bits.toNat) : jumpOf w = j := by
  have hbits : jumpBitsOf w = j.bits := BitVec.eq_of_toNat_eq h
  rw [jumpOf, hbits, Jump.ofBits_bits]

/-- The next pc by the row of R190's table that the jump field selects: `P` is what the row asks of comp. -/
theorem State.computed_pc_of_code {s : State} {w : Word} {P : Prop} [Decidable P] (j : Jump)
    (hP : Claim.jumpHolds j (Claim.compOf w s) = decide P) (h : (w.extractLsb' 0 3).toNat = j.bits.toNat) :
    (s.computed w).pc = if P then s.A.toNat else s.pc + 1 := by
  rw [State.computed_pc_compOf, jumpOf_eq_of_code h, jumpCond_eq_jumpHolds, hP]
  exact if_congr decide_eq_true_iff rfl rfl

/-- Settles O20, row by row of R190's table. -/
theorem jumpCodesDecideTheNextPc : Obligations.JumpCodesDecideTheNextPc := by
  intro w s hc ha
  exact ⟨_, exec_compute_ok hc ha,
    fun h => (State.computed_pc_of_code (P := False) .never rfl h).trans (if_neg not_false),
    State.computed_pc_of_code .jgt rfl,
    State.computed_pc_of_code .jeq rfl,
    State.computed_pc_of_code .jge rfl,
    State.computed_pc_of_code .jlt rfl,
    State.computed_pc_of_code .jne rfl,
    State.computed_pc_of_code .jle rfl,
    fun h => (State.computed_pc_of_code (P := True) .jmp rfl h).trans (if_pos trivial)⟩

/-! ### The destination bits (R201) -/

theorem destOf_toM (w : Word) : (destOf w).toM = w.getLsbD 3 := by simp [destOf, destBitsOf, Dest.ofBits]
theorem destOf_toD (w : Word) : (destOf w).toD = w.getLsbD 4 := by simp [destOf, destBitsOf, Dest.ofBits]
theorem destOf_toA (w : Word) : (destOf w).toA = w.getLsbD 5 := by simp [destOf, destBitsOf, Dest.ofBits]

/-- The memory after a compute word whose M bit is known (R36, R39, R201). -/
theorem State.computed_ram_of_bit {s : State} {w : Word} {b : Bool} (h : w.getLsbD 3 = b) :
    (s.computed w).ram = s.storedRam b s.ea (Claim.compOf w s) := by
  rw [State.computed_ram_compOf, destOf_toM, h]

/-- Settles O21: each place by its field of the state after the word, with the destination read as the word's bit. -/
theorem destBitsSelectTheWrites : Obligations.DestBitsSelectTheWrites := by
  intro w s hc ha
  have hD := State.computed_D_compOf s w
  have hA := State.computed_A_compOf s w
  rw [destOf_toD] at hD
  rw [destOf_toA] at hA
  refine ⟨_, exec_compute_ok hc ha, fun hM hk => ?_, fun hM hk => ?_, fun hM => ?_,
    fun h => hD.trans (if_pos h), fun h => hD.trans (if_neg (ne_true_of_eq_false h)),
    fun h => hA.trans (if_pos h), fun h => hA.trans (if_neg (ne_true_of_eq_false h))⟩
  · exact (State.computed_ram_of_bit hM).trans (if_pos ⟨rfl, hk⟩)
  · exact (State.computed_ram_of_bit hM).trans (if_neg fun hw => hw.2 hk)
  · exact (State.computed_ram_of_bit hM).trans (State.storedRam_false s _ _)

/-! ### Control transfer (R199, R213) -/

theorem State.takeFatal_not_running (s : State) (e : FatalError) : (s.takeFatal e).status ≠ .running := nofun

/-- The pc after a step that raises no error: only a compute word moves it other than to the next index. -/
theorem StepDid.pc_of_running {s t : State} {w : Word} (hd : StepDid s t) (hf : s.fetch = some w) (ht : t.status = .running) :
    t.pc = if classify w = .compute ∧ jumpCond (jumpOf w) (Claim.compOf w s) = true then s.A.toNat else s.pc + 1 := by
  cases hd with
  | noWord _ h => exact absurd (h ▸ ht) (State.takeFatal_not_running s _)
  | badAddress _ _ _ _ _ h => exact absurd (h ▸ ht) (State.takeFatal_not_running s _)
  | invalid _ _ _ h => exact absurd (h ▸ ht) (State.takeFatal_not_running s _)
  | address v hf' hc h =>
    obtain rfl : w = v := Option.some.inj (hf.symm.trans hf')
    rw [h, State.setA_pc, State.advance_pc, if_neg (by simp [hc])]
  | compute v hf' hc _ h =>
    obtain rfl : w = v := Option.some.inj (hf.symm.trans hf')
    rw [h, State.computed_pc_compOf]
    exact if_congr (and_iff_right hc).symm rfl rfl

/-- `0;JMP` (0xEA87): no destination, so only the pc changes, whatever A is. -/
theorem exec_zero_jmp (s : State) : exec (.zero ⟨false, false, false⟩ .jmp) s = .next { s with pc := s.A.toNat } := by
  show computeTick .aMode 0b101010#6 ⟨false, false, false⟩ .jmp s = _
  rw [computeTick_offMemory _ _ _ rfl, jumpCond_jmp]
  rfl

/-- Settles O40: the pc by the outcomes of a step; the next word is the one there in the same instruction array. -/
theorem aTrueComputeJumpIsTheOnlyTransfer : Obligations.ATrueComputeJumpIsTheOnlyTransfer := by
  refine ⟨fun s t w _ hf hstep ht => ?_, exec_zero_jmp⟩
  obtain ⟨-, hdid⟩ := step_cases hstep
  have hpc := hdid.pc_of_running hf ht
  refine ⟨hpc, ?_⟩
  rw [State.fetch, hdid.prog_params.1, hpc]
  exact apply_ite (s.prog[·]?) _ _ _

/-- Settles O41: the target is the pc itself, and `0;JMP` changes nothing else. -/
theorem aSelfJumpChangesNothing : Obligations.ASelfJumpChangesNothing := by
  intro s hs hf hA
  calc step s = exec (.zero ⟨false, false, false⟩ .jmp) s := step_of_fetch hs hf
    _ = .next { s with pc := s.A.toNat } := exec_zero_jmp s
    _ = .next s := by rw [hA]

end Sys2Proof.Machine
end

