-- ==== Sys2Proof/Proofs/FatalErrors.lean ====
section
/-! PROOFS. The three fatal errors (60_exceptions.md R220 to R227): `Raises` says once which error a running core is about to raise;
that the step then takes just that error, and takes none otherwise, gives the statements about each error. -/

namespace Sys2Proof.Machine

/-! ### Taking an error (R226) -/

/-- Nothing but the status, the pc and the draw counter is written, and the free value of the pc is bounded. -/
theorem State.takeFatal_faultedAs (s : State) (e : FatalError) : Claim.faultedAs e s (s.takeFatal e) :=
  ⟨rfl, rfl, rfl, rfl, rfl, rfl, rfl, Nat.le_of_lt_succ (Config.freePc s.draws).isLt⟩

/-! ### Which error is raised (R221 to R223) -/

/-- The condition of each error, with its diagnostic. -/
inductive Raises (s : State) : FatalError → Prop
  | pcOutOfRange (h : s.prog.length ≤ s.pc) : Raises s (.pcOutOfRange s.pc)
  | decodeError (w : Word) (hf : s.fetch = some w) (hc : classify w = .invalid) : Raises s (.decodeError s.pc w)
  | addressOutOfRange (w : Word) (hf : s.fetch = some w) (hc : classify w = .compute) (hw : touches w)
      (ha : s.params.memWords ≤ s.ea) : Raises s (.addressOutOfRange s.pc w s.ea)

theorem Raises.stepDid {s : State} {e : FatalError} (h : Raises s e) : StepDid s (s.takeFatal e) := by
  cases h with
  | pcOutOfRange h => exact .noWord h rfl
  | decodeError w hf hc => exact .invalid w hf hc rfl
  | addressOutOfRange w hf hc hw ha => exact .badAddress w hf hc hw ha rfl

/-- A step succeeds, or takes an error whose condition holds. -/
theorem StepDid.success_or_raises {s t : State} (hs : s.status = .running) (hd : StepDid s t) :
    t.status = .running ∨ ∃ e, Raises s e ∧ t = s.takeFatal e := by
  cases hd with
  | noWord h ht => exact .inr ⟨_, .pcOutOfRange h, ht⟩
  | address w _ _ ht => exact .inl (ht ▸ hs)
  | compute w _ _ _ ht => exact .inl (ht ▸ hs)
  | badAddress w hf hc hw ha ht => exact .inr ⟨_, .addressOutOfRange w hf hc hw ha, ht⟩
  | invalid w hf hc ht => exact .inr ⟨_, .decodeError w hf hc, ht⟩

theorem Raises.step_faultedAs {s : State} {e : FatalError} (hs : s.status = .running) (h : Raises s e) :
    ∃ t, step s = .next t ∧ Claim.faultedAs e s t :=
  ⟨_, h.stepDid.step_eq hs, s.takeFatal_faultedAs e⟩

/-- Settles O31: the range is the class invalid, whose step takes DecodeError; so does each of the three instructions itself. -/
theorem invalidWordsRaiseDecodeError : Obligations.InvalidWordsRaiseDecodeError := by
  refine ⟨fun w s hs hf hlo hhi => ?_, fun low s =>
    ⟨⟨_, rfl, s.takeFatal_faultedAs _⟩, ⟨_, rfl, s.takeFatal_faultedAs _⟩, ⟨_, rfl, s.takeFatal_faultedAs _⟩⟩⟩
  have hc : classify w = .invalid := (classify_invalid_iff_range w).mpr ⟨hlo, hhi⟩
  exact Raises.step_faultedAs hs (.decodeError w hf hc)

/-- Settles O32, by `exec_compute_bad`: the error is taken from the state before the instruction. -/
theorem accessOutOfRangeRaisesAndDoesNothing : Obligations.AccessOutOfRangeRaisesAndDoesNothing :=
  fun _ s hc hw ha => ⟨_, exec_compute_bad hc hw ha, s.takeFatal_faultedAs _⟩

/-- Settles O33, by the first condition of `Raises`. -/
theorem pcOutOfRangeIsRaisedByTheFetch : Obligations.PcOutOfRangeIsRaisedByTheFetch :=
  fun _ hs h => Raises.step_faultedAs hs (.pcOutOfRange h)

/-- Settles O36: a step that does not succeed has taken an error. -/
theorem aFailingTickHasNoPartialEffect : Obligations.AFailingTickHasNoPartialEffect := by
  intro s t hstep ht
  obtain ⟨hs, hdid⟩ := step_cases hstep
  obtain ⟨e, -, rfl⟩ := (hdid.success_or_raises hs).resolve_left ht
  exact ⟨e, s.takeFatal_faultedAs e⟩

/-! ### The tick as the host sees it (R230) -/

theorem State.tick_of_next {s t : State} (h : step s = .next t) : s.tick = (t.status.error?, t) := by
  rw [State.tick, h]

theorem State.tick_of_faulted {s : State} {e : FatalError} (hs : s.status = .faulted e) : s.tick = (some e, s) := by
  rw [State.tick, step_faulted hs]

/-- Settles O35: the step does not look past the status. -/
theorem faultedIsTerminal : Obligations.FaultedIsTerminal :=
  fun _ _ hs => ⟨step_faulted hs, State.tick_of_faulted hs⟩

/-- The tick returns an error just when its condition holds. -/
theorem State.tick_error_iff_raises {s : State} (hs : s.status = .running) (e : FatalError) :
    s.tick.1 = some e ↔ Raises s e := by
  constructor
  · intro h
    obtain ⟨t, hstep, hdid⟩ := step_running hs
    rw [State.tick_of_next hstep] at h
    obtain ht | ⟨e', hraises, rfl⟩ := hdid.success_or_raises hs
    · rw [ht] at h
      cases h
    · cases h
      exact hraises
  · intro h
    rw [State.tick_of_next (h.stepDid.step_eq hs)]
    rfl

/-- Settles O34, by `tick_error_iff_raises` and the one condition `Raises` has for each error. -/
theorem eachErrorUnderItsOwnCondition : Obligations.EachErrorUnderItsOwnCondition := by
  intro s hs
  refine ⟨fun i => ?_, fun i w => ?_, fun i w a => ?_⟩ <;> rw [State.tick_error_iff_raises hs]
  · constructor
    · intro h
      cases h with
      | pcOutOfRange h => exact ⟨h, rfl⟩
    · rintro ⟨h, rfl⟩
      exact .pcOutOfRange h
  · constructor
    · intro h
      cases h with
      | decodeError w hf hc => exact ⟨hf, hc, rfl⟩
    · rintro ⟨hf, hc, rfl⟩
      exact .decodeError w hf hc
  · constructor
    · intro h
      cases h with
      | addressOutOfRange w hf hc hw ha => exact ⟨hf, hc, hw, ha, rfl, rfl⟩
    · rintro ⟨hf, hc, hw, ha, rfl, rfl⟩
      exact .addressOutOfRange w hf hc hw ha

end Sys2Proof.Machine
end

