-- ==== Sys2Proof/Proofs/HostOperations.lean ====
section
/-! PROOFS. The host operations (60_exceptions.md R236 to R239): what the display query and the keyboard setting change, and that
every operation keeps the invariant of 10_state.md. -/

namespace Sys2Proof.Machine

/-- Settles O50: the keyboard setting is one memory write; the query clears the bit it returns. -/
theorem theHostChangesOnlyItsTwoPlaces : Obligations.TheHostChangesOnlyItsTwoPlaces :=
  fun s v => ⟨⟨Memory.read_write_same s.ram kbd v, fun _ ha => Memory.read_write_other s.ram v ha, rfl⟩, rfl, rfl, rfl, rfl⟩

/-! ### The invariant -/

theorem State.Inv.construct {p : Params} {prog : List Word} {s : State} (hp : p.wf) (h : State.construct p prog = .ok s) :
    s.Inv := by
  by_cases hlen : prog.length ≤ 65536
  · rw [State.construct_ok p hlen] at h
    cases h
    exact { resetMeetsTheInvariant with
      ramInRange := fun _ hc => absurd hc List.not_mem_nil, progBound := hlen, paramsWf := hp }
  · rw [State.construct_tooLong p (Nat.not_le.mp hlen)] at h
    cases h

/-- From status Faulted a tick leaves the state as it is; from status Running it is a step. -/
theorem State.Inv.tick {s : State} (h : s.Inv) : s.tick.2.Inv := by
  cases hs : s.status with
  | faulted e => rwa [State.tick_of_faulted hs]
  | running =>
    obtain ⟨t, hstep, -⟩ := step_running hs
    rw [State.tick_of_next hstep]
    exact everyStepKeepsTheInvariant s t h hstep

/-- The cell written is the keyboard's, which exists under admissible parameters (R36). -/
theorem State.Inv.setKeyboard {s : State} (h : s.Inv) (v : Word) : (s.setKeyboard v).Inv where
  ramWf := Memory.write_wf kbd v h.ramWf
  ramInRange := fun c hc => by
    rcases Memory.mem_write hc with hkbd | hc
    · rw [hkbd]
      exact h.paramsWf
    · exact h.ramInRange c hc
  pcBound := h.pcBound
  progBound := h.progBound
  paramsWf := h.paramsWf

theorem State.Inv.hostStep {s : State} (h : s.Inv) (op : HostOp) : (s.hostStep op).Inv := by
  cases op with
  | tick => exact h.tick
  | queryDisplay => exact { h with }
  | setKeyboard v => exact h.setKeyboard v

/-- Settles O46: what holds after construction and is kept by each operation holds of every core the host can have. -/
theorem everyHostOperationKeepsTheInvariant : Obligations.EveryHostOperationKeepsTheInvariant := by
  refine ⟨fun p prog s => State.Inv.construct, fun s op h => h.hostStep op, fun s hr => ?_⟩
  induction hr with
  | construct p prog s hp h => exact .construct hp h
  | op s op _ ih => exact ih.hostStep op

end Sys2Proof.Machine
end

