-- ==== Sys2Proof/Proofs/ParkedLoop.lean ====
section
/-! PROOFS. The two-instruction loop of a parked core (60_exceptions.md R240): one tick from it stays in it, so any number does. -/

namespace Sys2Proof.Machine

/-- What any number of ticks, at least one, leaves of the state `s`: a state of the loop with A = e, where A and pc alone can have
changed. -/
structure LoopedFrom (e : Nat) (s t : State) : Prop where
  inLoop : t.InParkedLoop e
  A : t.A = BitVec.ofNat 16 e
  D : t.D = s.D
  ram : t.ram = s.ram
  displayChanged : t.displayChanged = s.displayChanged

theorem LoopedFrom.trans {e : Nat} {s t u : State} (hst : LoopedFrom e s t) (htu : LoopedFrom e t u) : LoopedFrom e s u where
  inLoop := htu.inLoop
  A := htu.A
  D := htu.D.trans hst.D
  ram := htu.ram.trans hst.ram
  displayChanged := htu.displayChanged.trans hst.displayChanged

/-- A state of the loop with only A and the pc moved is in the loop again if the two are those of a place in it. -/
theorem State.InParkedLoop.loopedFrom {s : State} {e pc : Nat} (h : s.InParkedLoop e) (hpc : pc = e ∨ pc = e + 1) :
    LoopedFrom e s { s with A := BitVec.ofNat 16 e, pc := pc } where
  inLoop := { running := h.running, fits := h.fits, small := h.small, load := h.load, jumpWord := h.jumpWord,
              atLoop := hpc.imp_right fun hpc => ⟨hpc, rfl⟩ }
  A := rfl
  D := rfl
  ram := rfl
  displayChanged := rfl

theorem State.ParkedAt.inParkedLoop {s : State} {e : Nat} (h : s.ParkedAt e) : s.InParkedLoop e where
  running := h.running
  fits := h.fits
  small := h.small
  load := h.load
  jumpWord := h.jumpWord
  atLoop := .inl h.atE

theorem toNat_ofNat_of_small {e : Nat} (h : e ≤ 32767) : (BitVec.ofNat 16 e).toNat = e := by
  rw [BitVec.toNat_ofNat]
  exact Nat.mod_eq_of_lt (by omega)

/-- The address word `@e` loads e (R90). -/
theorem exec_decode_ofNat_small {e : Nat} (h : e ≤ 32767) (s : State) :
    exec (decode (BitVec.ofNat 16 e)) s = .next { s with A := BitVec.ofNat 16 e, pc := s.pc + 1 } := by
  have hc : classify (BitVec.ofNat 16 e) = .address := by
    rw [classify_address_iff_lt, toNat_ofNat_of_small h]
    omega
  rw [exec_decode_address hc, constructAddress_of_address hc]
  rfl

/-- A compute word with j = 111, d = 000, a = 0 changes the pc alone, whatever it computes. -/
theorem exec_decode_plainJump {w : Word} (hc : classify w = .compute) (hj : jumpOf w = .jmp) (hd : destBitsOf w = 0#3)
    (hm : modeOf w = .aMode) (s : State) : exec (decode w) s = .next { s with pc := s.A.toNat } := by
  have hdest : destOf w = ⟨false, false, false⟩ := by
    rw [destOf, hd]
    rfl
  rw [exec_decode_compute hc, hm, hj, computeTick_offMemory _ _ _ (by rw [hdest]), hdest, jumpCond_jmp]
  rfl

/-- One tick in the loop: the first word loads e into A, the second jumps to it. -/
theorem State.InParkedLoop.step {s : State} {e : Nat} (h : s.InParkedLoop e) : ∃ t, step s = .next t ∧ LoopedFrom e s t := by
  obtain hpc | ⟨hpc, hA⟩ := h.atLoop
  · have hf : s.fetch = some (BitVec.ofNat 16 e) := by rw [State.fetch, hpc, h.load]
    refine ⟨_, ?_, h.loopedFrom (.inr rfl)⟩
    rw [step_of_fetch h.running hf, exec_decode_ofNat_small h.small, hpc]
  · obtain ⟨w, hw, hc, hj, hd, hm⟩ := h.jumpWord
    have hf : s.fetch = some w := by rw [State.fetch, hpc, hw]
    refine ⟨_, ?_, h.loopedFrom (.inl rfl)⟩
    rw [step_of_fetch h.running hf, exec_decode_plainJump hc hj hd hm, hA, toNat_ofNat_of_small h.small, ← hA]

theorem core_run_succ_of_next (M : Host.Core) {s t : M.State} (h : M.step s = .next t) (k : Nat) :
    M.run (k + 1) s = M.run k t := by
  rw [Host.Core.run, h]

/-- `n + 1` ticks leave what one tick leaves. -/
theorem State.InParkedLoop.run {e : Nat} (n : Nat) {s : State} (h : s.InParkedLoop e) :
    ∃ t : State, Host.Core.run core (n + 1) s = .next t ∧ LoopedFrom e s t := by
  induction n generalizing s with
  | zero =>
    obtain ⟨t, hstep, ht⟩ := h.step
    exact ⟨t, core_run_succ_of_next core hstep 0, ht⟩
  | succ n ih =>
    obtain ⟨t, hstep, ht⟩ := h.step
    obtain ⟨u, hrun, hu⟩ := ih ht.inLoop
    exact ⟨u, (core_run_succ_of_next core hstep (n + 1)).trans hrun, ht.trans hu⟩

/-- Settles O52: a parked state is at the first word of the loop; a tick by `InParkedLoop.step`, the run by `InParkedLoop.run`. -/
theorem aParkedCoreStaysInItsLoop : Obligations.AParkedCoreStaysInItsLoop := by
  refine ⟨fun s e h => h.inParkedLoop, fun s e h => ?_, fun s e n h => ?_⟩
  · obtain ⟨t, hstep, ht⟩ := h.step
    exact ⟨t, hstep, ht.inLoop, ht.A, ht.D, ht.ram, ht.displayChanged⟩
  · obtain ⟨t, hrun, ht⟩ := h.inParkedLoop.run n
    exact ⟨t, hrun, ht.A, ht.D, ht.ram, ht.displayChanged, ht.inLoop.running, ht.inLoop.atLoop.imp_right And.left⟩

end Sys2Proof.Machine
end

