-- ==== Sys2Proof/Proofs/Fetch.lean ====
section
/-! PROOFS. The tick runs the word at pc (60_exceptions.md R230), also one that `withFetchWord` has placed there (log 6). -/

namespace Sys2Proof.Machine

/-- Settles O38, by `step_of_fetch`: the fetch is the word at pc. -/
theorem stepRunsTheDecodedInstruction : Obligations.StepRunsTheDecodedInstruction :=
  fun _ _ hs hf => step_of_fetch hs hf

theorem getElem?_putWord (prog : List Word) (n : Nat) (w : Word) : (putWord prog n w)[n]? = some w := by
  induction n generalizing prog with
  | zero => cases prog <;> rfl
  | succ n ih => cases prog <;> exact ih _

theorem State.fetch_withFetchWord (s : State) (w : Word) : (s.withFetchWord 16 w.toNat).fetch = some w := by
  have hw : BitVec.ofNat 16 (w.toNat % 2 ^ 16) = w := by
    rw [Nat.mod_eq_of_lt w.isLt, BitVec.ofNat_toNat, BitVec.setWidth_eq]
  exact (getElem?_putWord _ _ _).trans (congrArg some hw)

/-- Settles O39: the placed word is the one fetched, in status Running; the index is the pc where a word can stand there. -/
theorem aPlacedWordIsRunNext : Obligations.APlacedWordIsRunNext :=
  fun s w => ⟨step_of_fetch rfl (s.fetch_withFetchWord w), rfl, rfl, rfl, fun h => if_pos h⟩

end Sys2Proof.Machine
end

