-- ==== Sys2Proof/Proofs/TickListing.lean ====
section
/-! PROOFS. The tick is the one-piece listing of R230: first the listing's arithmetic on numbers and bits is the model's on words,
then the listing is evaluated on each of the outcomes of a step. -/

namespace Sys2Proof.Machine

/-! ### The ALU and the condition of the listing (R104, R190) -/

theorem ofNat_65535_sub (x : Word) : BitVec.ofNat 16 (65535 - x.toNat) = ~~~x := by bv_omega

theorem ofNat_toNat_add_mod (x y : Word) : BitVec.ofNat 16 ((x.toNat + y.toNat) % 65536) = x + y := by bv_omega

theorem aluListing_eq_alu (c : BitVec 6) (x y : Word) : Claim.aluListing c x y = alu c x y := by
  simp only [Claim.aluListing, ofNat_65535_sub, ofNat_toNat_add_mod, alu, preset]

/-- Bit 15 is the sign of the signed value, and only the word 0 has the signed value 0. -/
theorem condListing_eq_jumpCond (j : BitVec 3) (v : Word) : Claim.condListing j v = jumpCond (Jump.ofBits j) v := by
  have hneg : v.getLsbD 15 = decide (v.signed < 0) := (BitVec.msb_eq_getLsbD_last v).symm.trans BitVec.msb_eq_toInt
  have hzero : (v == 0#16) = decide (v.signed = 0) := by
    rw [beq_eq_decide, decide_eq_decide]
    exact (BitVec.toInt_inj (y := 0#16)).symm
  have hpos : (!decide (v.signed < 0) && !decide (v.signed = 0)) = decide (0 < v.signed) := by
    simp only [← decide_not, ← Bool.decide_and, decide_eq_decide]
    omega
  rw [Claim.condListing, Bool.and_assoc, bne, hneg, hzero, hpos, jumpCond, Jump.bits_ofBits]

/-! ### The tests of the listing on the raw word (R51, R112) -/

theorem extractLsb'_high_iff (w : Word) : w.extractLsb' 13 3 = 0b111#3 ↔ classify w = .compute := by
  rw [classify_compute_iff_le, ← BitVec.toNat_inj, BitVec.extractLsb'_toNat, Nat.shiftRight_eq_div_pow, BitVec.toNat_ofNat]
  have := w.isLt
  omega

theorem touches_iff (w : Word) : w.getLsbD 12 = true ∨ (w.extractLsb' 3 3).getLsbD 0 = true ↔ touches w := by
  rw [touches, modeOf]
  refine or_congr ?_ Iff.rfl
  cases w.getLsbD 12 <;> simp

/-! ### The listing by the model's operations -/

/-- The memory part of the listing: the store of `v` at the old A of `s` into the state `s2`, whose pc may have jumped. -/
def listedStore (s s2 : State) (toM : Bool) (v : Word) : State :=
  if toM = true ∧ s.ea ≠ 24576 then
    { s2 with
      ram := s2.ram.write s.ea v
      displayChanged := s2.displayChanged ||
        (decide (16384 ≤ s.ea ∧ s.ea ≤ 24575) && !(s.params.skipRedundantScreenWrites && s.ram.read s.ea == v)) }
  else s2

/-- The compute part of the listing: its steps one after the other, with comp as a parameter. -/
def listedCompute (s : State) (dest : Dest) (taken : Bool) (comp : Word) : State :=
  ((listedStore s (s.advance.jumpIf taken s.ea) dest.toM comp).storeA dest.toA comp).storeD dest.toD comp

/-- comp as the listing computes it. -/
def listedComp (s : State) (w : Word) : Word :=
  Claim.aluListing (controlOf w) s.D (if w.getLsbD 12 = true then s.ram.read s.ea else s.A)

/-- The listing after a successful fetch of `w`. -/
def listedWord (s : State) (w : Word) : Option FatalError × State :=
  if w.getLsbD 15 = false then (none, s.advance.setA ((w.extractLsb' 0 15).setWidth 16))
  else if w.extractLsb' 13 3 = 0b111#3 then
    if (w.getLsbD 12 = true ∨ (w.extractLsb' 3 3).getLsbD 0 = true) ∧ s.params.memWords ≤ s.ea then
      (some (.addressOutOfRange s.pc w s.ea), { s.advance with status := .faulted (.addressOutOfRange s.pc w s.ea) })
    else (none, listedCompute s (destOf w) (Claim.condListing (jumpBitsOf w) (listedComp s w)) (listedComp s w))
  else (some (.decodeError s.pc w), { s.advance with status := .faulted (.decodeError s.pc w) })

theorem tickListing_faulted {s : State} {e : FatalError} (hs : s.status = .faulted e) : Claim.tickListing s = (some e, s) := by
  rw [Claim.tickListing, hs]

theorem tickListing_noWord {s : State} (hs : s.status = .running) (h : s.prog.length ≤ s.pc) : Claim.tickListing s =
    (some (.pcOutOfRange s.pc), { s with status := .faulted (.pcOutOfRange s.pc) }) := by
  rw [Claim.tickListing, hs]
  exact if_pos h

theorem tickListing_of_fetch {s : State} {w : Word} (hs : s.status = .running) (hf : s.fetch = some w) :
    Claim.tickListing s = listedWord s w := by
  have hpc := Nat.not_le.mpr (State.pc_lt_of_fetch hf)
  obtain rfl : s.prog.getD s.pc 0#16 = w := by
    rw [List.getD_eq_getElem?_getD, show s.prog[s.pc]? = some w from hf, Option.getD_some]
  cases s
  cases hs
  exact if_neg hpc

/-! ### The listing on each outcome of a step -/

/-- Where the jump left memory and display bit alone, the store is the one of `MemWrite`. -/
theorem listedStore_eq {s s2 : State} (hr : s2.ram = s.ram) (hd : s2.displayChanged = s.displayChanged) (toM : Bool) (v : Word) :
    listedStore s s2 toM v = { s2 with ram := s.storedRam toM s.ea v, displayChanged := s.storedDisplay toM s.ea v } := by
  have hcond : (toM && s.ea != kbd) = true ↔ toM = true ∧ s.ea ≠ 24576 := by simp
  rw [listedStore, State.storedRam_eq_ite, State.storedDisplay, State.displayReport, inScreen_eq]
  by_cases h : toM = true ∧ s.ea ≠ 24576
  · rw [if_pos h, hcond.mpr h, if_pos rfl, Bool.true_and, hr, hd]
  · rw [if_neg h, Bool.eq_false_of_not_eq_true (mt hcond.mp h), if_neg Bool.false_ne_true, Bool.false_and,
      Bool.or_false, ← hr, ← hd]

/-- The stores one after the other leave every field as `State.computed` has it. -/
theorem listedCompute_eq_computed (s : State) (w : Word) :
    listedCompute s (destOf w) (jumpCond (jumpOf w) (Claim.compOf w s)) (Claim.compOf w s) = s.computed w := by
  rw [listedCompute, listedStore_eq (by simp) (by simp), State.computed, State.alu_yOf_eq_compOf]
  cases (destOf w).toA <;> cases (destOf w).toD <;> cases jumpCond (jumpOf w) (Claim.compOf w s) <;> rfl

theorem listedComp_eq_compOf (s : State) (w : Word) : listedComp s w = Claim.compOf w s := by
  rw [listedComp, aluListing_eq_alu, Claim.compOf, modeOf]
  cases w.getLsbD 12 <;> rfl

section
variable {s : State} {w : Word}

theorem listedWord_address (hc : classify w = .address) : listedWord s w = (none, s.advance.setA (constructAddress w)) := by
  rw [listedWord, if_pos ((classify_address_iff w).mp hc), constructAddress_eq_setWidth]

theorem listedWord_invalid (hc : classify w = .invalid) :
    listedWord s w = (some (.decodeError s.pc w), { s.advance with status := .faulted (.decodeError s.pc w) }) := by
  rw [listedWord, if_neg (mt (classify_address_iff w).mpr (by simp [hc])), if_neg (mt (extractLsb'_high_iff w).mp (by simp [hc]))]

theorem listedWord_badAddress (hc : classify w = .compute) (hw : touches w) (ha : s.params.memWords ≤ s.ea) :
    listedWord s w =
      (some (.addressOutOfRange s.pc w s.ea), { s.advance with status := .faulted (.addressOutOfRange s.pc w s.ea) }) := by
  rw [listedWord, if_neg (mt (classify_address_iff w).mpr (by simp [hc])), if_pos ((extractLsb'_high_iff w).mpr hc),
    if_pos ⟨(touches_iff w).mpr hw, ha⟩]

theorem listedWord_compute (hc : classify w = .compute) (ha : touches w → s.ea < s.params.memWords) :
    listedWord s w = (none, s.computed w) := by
  have hok : ¬ ((w.getLsbD 12 = true ∨ (w.extractLsb' 3 3).getLsbD 0 = true) ∧ s.params.memWords ≤ s.ea) :=
    fun ⟨hw, hle⟩ => Nat.not_le.mpr (ha ((touches_iff w).mp hw)) hle
  rw [listedWord, if_neg (mt (classify_address_iff w).mpr (by simp [hc])), if_pos ((extractLsb'_high_iff w).mpr hc), if_neg hok,
    listedComp_eq_compOf, condListing_eq_jumpCond, ← jumpOf, listedCompute_eq_computed]

end

theorem agreeButPc_refl (s : State) : Claim.agreeButPc s s := ⟨rfl, rfl, rfl, rfl, rfl, rfl, rfl⟩

theorem agreeButPc_takeFatal (s : State) (e : FatalError) (pc : Nat) :
    Claim.agreeButPc (s.takeFatal e) { s with pc := pc, status := .faulted e } := ⟨rfl, rfl, rfl, rfl, rfl, rfl, rfl⟩

/-- Settles O43, by the outcomes of a step: success leaves the listing's state, an error the same but for the pc. -/
theorem theTickIsTheListing : Obligations.TheTickIsTheListing := by
  intro s
  cases hs : s.status with
  | faulted e =>
    rw [State.tick_of_faulted hs, tickListing_faulted hs]
    exact ⟨rfl, agreeButPc_refl s, fun _ => rfl, fun _ => rfl⟩
  | running =>
    obtain ⟨t, hstep, hdid⟩ := step_running hs
    rw [State.tick_of_next hstep]
    suffices h : t.status.error? = (Claim.tickListing s).1 ∧ Claim.agreeButPc t (Claim.tickListing s).2 ∧
        ((Claim.tickListing s).1 = none → t = (Claim.tickListing s).2) from
      ⟨h.1, h.2.1, h.2.2, fun h => absurd rfl h⟩
    cases hdid with
    | noWord h ht =>
      rw [tickListing_noWord hs h, ht]
      exact ⟨rfl, agreeButPc_takeFatal s _ _, nofun⟩
    | address w hf hc ht =>
      rw [tickListing_of_fetch hs hf, listedWord_address hc, ht]
      exact ⟨congrArg Status.error? hs, agreeButPc_refl _, fun _ => rfl⟩
    | compute w hf hc ha ht =>
      rw [tickListing_of_fetch hs hf, listedWord_compute hc ha, ht]
      exact ⟨congrArg Status.error? hs, agreeButPc_refl _, fun _ => rfl⟩
    | badAddress w hf hc hw ha ht =>
      rw [tickListing_of_fetch hs hf, listedWord_badAddress hc hw ha, ht]
      exact ⟨rfl, agreeButPc_takeFatal s _ _, nofun⟩
    | invalid w hf hc ht =>
      rw [tickListing_of_fetch hs hf, listedWord_invalid hc, ht]
      exact ⟨rfl, agreeButPc_takeFatal s _ _, nofun⟩

end Sys2Proof.Machine
end
